-- ==== Sys2Proof/Word.lean ====
section
/-! DEFINITION. The widths of the block (R24, R71, R75) and the level of a pin (R11). -/

namespace Sys2Proof

/-- A byte: "an 8-bit unsigned quantity" (R10). -/
abbrev Byte := BitVec 8

/-- The host's command word `CMD` (R71). -/
abbrev CmdWord := BitVec 32

/-- The Pin Driver port's micro-operation word `UOP` (R75). -/
abbrev UopWord := BitVec 5

/-- The peer address `ADDR` (R24, R25). -/
abbrev PeerAddr := BitVec 7

/-- The received word `RWORD` (R24, R28). -/
abbrev Word16 := BitVec 16

/-- A pin level is `LOW` or `HIGH` (R11). -/
inductive Level where
  | low
  | high
deriving DecidableEq, Repr, Inhabited

end Sys2Proof
end

