-- ==== Sys2Proof/Config.lean ====
section
/-! DEFINITION. The parameters of the block (R7 to R9, R20 to R22) and the free values: what the spec leaves open,
as constants without a body. -/

namespace Sys2Proof

/-- The level of the data wire under one drive of this side, when no peer pulls it low (`released`) and when one does
(`pulled`); `none` is "unspecified" (R40). -/
structure WireLevels where
  released : Option Level
  pulled : Option Level
deriving DecidableEq, Repr

/-- The parameter `resolve_sda`, "function of (mode, latch, peer_low) to a level or unspecified" (R9, R40, D19), as a table:
one row for each mode and latch of the data pin. -/
structure SdaResolve where
  inputLow : WireLevels
  inputHigh : WireLevels
  outputLow : WireLevels
  outputHigh : WireLevels
deriving DecidableEq, Repr

/-- The default `resolve_sda`, its four cases in the words of R40. -/
def SdaResolve.default : SdaResolve where
  inputLow := ⟨some .high, some .low⟩
  inputHigh := ⟨some .high, some .low⟩
  outputLow := ⟨some .low, some .low⟩
  outputHigh := ⟨some .high, none⟩

/-- R38: in input mode a sample is "`LOW` if a peer pulls the wire low and `HIGH` if none does". What the platform is free in
is the pad that drives: "whether output-high fights or yields is the pad's property" (D19). -/
abbrev SdaResolve.readsInput (r : SdaResolve) : Prop :=
  r.inputLow = ⟨some .high, some .low⟩ ∧ r.inputHigh = ⟨some .high, some .low⟩

/-- The static inputs of the block, constant from reset to the end of the run (R22): two pin identities (R7), five
durations in ticks (R8, R21), the depth of `BUF` and the level of the data wire (R9). They are data of the state so that
a statement holds for every configuration. -/
structure Config where
  /-- `PIN_SCL` (R7). -/
  pinScl : Nat
  /-- `PIN_SDA` (R7). -/
  pinSda : Nat
  /-- `T_START_HOLD` (R21). -/
  tStartHold : Nat
  /-- `T_STOP_HOLD` (R21). -/
  tStopHold : Nat
  /-- `T_CLK_LOW_HOLD` (R21). -/
  tClkLowHold : Nat
  /-- `T_CLK_HIGH_HOLD` (R21). -/
  tClkHighHold : Nat
  /-- `T_INPUT_SETTLE_EXTRA` (R21). -/
  tInputSettle : Nat
  /-- `BUF_DEPTH` (R9). -/
  bufDepth : Nat
  /-- `resolve_sda` (R9, R40). -/
  resolveSda : SdaResolve
deriving DecidableEq, Repr

/-- The default configuration: every duration 0 (R8, R21), `BUF_DEPTH` 255, `resolve_sda` of R40 (R9). DESIGN CHOICE, log 8:
the pin identities, which have no default, are 0 and 1. -/
def Config.default : Config where
  pinScl := 0
  pinSda := 1
  tStartHold := 0
  tStopHold := 0
  tClkLowHold := 0
  tClkHighHold := 0
  tInputSettle := 0
  bufDepth := 255
  resolveSda := SdaResolve.default

/-- The legal configurations: `PIN_SCL != PIN_SDA` (R7), `BUF_DEPTH` from 1 to 255 (R9), a
`resolve_sda` that reads the input pin as R38 says (log 14). -/
abbrev Config.wf (c : Config) : Prop :=
  c.pinScl ≠ c.pinSda ∧ 1 ≤ c.bufDepth ∧ c.bufDepth ≤ 255 ∧ c.resolveSda.readsInput

/-- FREE VALUE, log 4. Whether some peer pulls the data wire low at a sample that the peers' script does not reach
(R40, R42: "free inputs (an oracle)"). -/
opaque Config.freePeerLow : Nat → Bool

/-- FREE VALUE, log 14. The level of the data wire where `resolve_sda` leaves it unspecified: by default, while this side
drives it `HIGH` and a peer pulls it low, "contention" (R40, U5). -/
opaque Config.freeWire : Nat → Level

/-- FREE VALUE, log 13. A byte of the data result of a failed read: "any value" (R27, R29, U3). -/
opaque Config.freeByte : Nat → Byte

/-- FREE VALUE, log 13. The word of a failed `RD2`: "any value" (R28, U3). -/
opaque Config.freeWord : Nat → Word16

end Sys2Proof
end

