-- ==== Sys2Proof/Syntax.lean ====
section
/-! DEFINITION. The instructions: one constructor per row of spec/opcode_table.json, the eight commands of R73 and the
thirteen micro-operations of R76. -/

namespace Sys2Proof

/-- The instructions of the two ports (R70). -/
inductive Instr where
  /-- `START` (R122). -/
  | start
  /-- `STOP` (R123). -/
  | stop
  /-- `WRB d` (R131). -/
  | wrb (d : Byte)
  /-- `RDB` (R141). -/
  | rdb
  /-- `WRT a, n` (R154). -/
  | wrt (a : PeerAddr) (n : Byte)
  /-- `RD1 a` (R156). -/
  | rd1 (a : PeerAddr)
  /-- `RD2 a` (R157). -/
  | rd2 (a : PeerAddr)
  /-- `RDN a, n` (R158). -/
  | rdn (a : PeerAddr) (n : Byte)
  /-- `C0`: `SCL.set(LOW)`. -/
  | c0
  /-- `C1`: `SCL.set(HIGH)`. -/
  | c1
  /-- `Co`: `SCL.out()`. -/
  | cOut
  /-- `D0`: `SDA.set(LOW)`. -/
  | d0
  /-- `D1`: `SDA.set(HIGH)`. -/
  | d1
  /-- `Do`: `SDA.out()`. -/
  | dOut
  /-- `Di`: `SDA.in()`. -/
  | dIn
  /-- `Dr`: `b <- SDA.read()`. -/
  | dRead
  /-- `wS`: `wait(T_START_HOLD)`. -/
  | wStart
  /-- `wP`: `wait(T_STOP_HOLD)`. -/
  | wStop
  /-- `wL`: `wait(T_CLK_LOW_HOLD)`. -/
  | wLow
  /-- `wH`: `wait(T_CLK_HIGH_HOLD)`. -/
  | wHigh
  /-- `wI`: `wait(T_INPUT_SETTLE_EXTRA)`. -/
  | wSettle
deriving DecidableEq, Repr

end Sys2Proof
end

