-- ==== Sys2Proof/WellFormed.lean ====
section
/-! DEFINITION. The operand ranges that a legal encoding has beyond its field widths (R90): the field widths themselves
are the types of the operands (an address outside 0 to 127 cannot be written: R60, U1). -/

namespace Sys2Proof

/-- R90: `WRT` takes 0 to `BUF_DEPTH` bytes, `RDN` takes 1 to `BUF_DEPTH`. -/
def Instr.wellFormed (depth : Nat) : Instr → Bool
  | .wrt _ n => decide (n.toNat ≤ depth)
  | .rdn _ n => decide (1 ≤ n.toNat) && decide (n.toNat ≤ depth)
  | .start | .stop | .wrb _ | .rdb | .rd1 _ | .rd2 _ => true
  | .c0 | .c1 | .cOut | .d0 | .d1 | .dOut | .dIn | .dRead => true
  | .wStart | .wStop | .wLow | .wHigh | .wSettle => true

/-- The rows of the command port (R73), as against the micro-operations of the Pin Driver port (R76). -/
def Instr.isCommand : Instr → Bool
  | .start | .stop | .wrb _ | .rdb | .wrt _ _ | .rd1 _ | .rd2 _ | .rdn _ _ => true
  | .c0 | .c1 | .cOut | .d0 | .d1 | .dOut | .dIn | .dRead => false
  | .wStart | .wStop | .wLow | .wHigh | .wSettle => false

end Sys2Proof
end

