-- ==== Sys2Proof/Decode.lean ====
section
/-! DEFINITION. The decoder of the two ports' words (R71 to R76, R81 to R83, R90), the encoder, and the reading of a
table word. -/

namespace Sys2Proof

/-- A word on one of the two ports (R70). -/
inductive Code where
  | cmd (w : CmdWord)
  | uop (w : UopWord)
deriving DecidableEq, Repr

/-- Why a word is not a legal encoding. -/
inductive DecodeError where
  /-- `OP` 0x0 or 0x9 to 0xF (R81). -/
  | reservedOp
  /-- `CMD[27:23]` not zero (R82). -/
  | zeroField
  /-- a field the command does not use is not zero (R82). -/
  | unusedField
  /-- `RDN` with `LEN = 0` (R90). -/
  | lenZero
  /-- `WRT` or `RDN` with `LEN > BUF_DEPTH` (R90). -/
  | lenAboveDepth
  /-- `UOP` 0x03 (`SCL.in()`) or 0x04 (`SCL.read()`), defined and never issued (R76, R83). -/
  | uopUnissued
  /-- `UOP` with `CLS = 11` or `SEL` above 100 (R75, R83). -/
  | uopReserved
deriving DecidableEq, Repr

namespace CmdWord

/-- `OP`, bits 31:28 (R71). -/
def op (w : CmdWord) : BitVec 4 := w.extractLsb' 28 4

/-- `ZERO`, bits 27:23 (R71). -/
def zero (w : CmdWord) : BitVec 5 := w.extractLsb' 23 5

/-- `ADDR`, bits 22:16 (R71). -/
def addr (w : CmdWord) : PeerAddr := w.extractLsb' 16 7

/-- `LEN`, bits 15:8 (R71). -/
def len (w : CmdWord) : Byte := w.extractLsb' 8 8

/-- `DATA`, bits 7:0 (R71). -/
def data (w : CmdWord) : Byte := w.extractLsb' 0 8

/-- The word of five fields, `{OP, ZERO, ADDR, LEN, DATA}` (R71). -/
def assemble (op : BitVec 4) (zero : BitVec 5) (addr : PeerAddr) (len data : Byte) : CmdWord :=
  op ++ zero ++ addr ++ len ++ data

end CmdWord

/-- A command whose unused fields, the list, must all be zero (R82). -/
def whenUnusedZero (unused : List Byte) (i : Except DecodeError Instr) : Except DecodeError Instr :=
  if unused.all (· == 0#8) then i else .error .unusedField

/-- `LEN` of `WRT` (R90). -/
def wrtOfLen (depth : Nat) (a : PeerAddr) (n : Byte) : Except DecodeError Instr :=
  if n.toNat ≤ depth then .ok (.wrt a n) else .error .lenAboveDepth

/-- `LEN` of `RDN` (R90). -/
def rdnOfLen (depth : Nat) (a : PeerAddr) (n : Byte) : Except DecodeError Instr :=
  if n.toNat = 0 then .error .lenZero
  else if n.toNat ≤ depth then .ok (.rdn a n) else .error .lenAboveDepth

/-- The command a `CMD` word selects (R73, R74, R81, R82, R90); `depth` is `BUF_DEPTH`. -/
def decodeCmd (depth : Nat) (w : CmdWord) : Except DecodeError Instr :=
  let a := CmdWord.addr w
  let n := CmdWord.len w
  let d := CmdWord.data w
  let a8 : Byte := a.setWidth 8
  if 1 ≤ (CmdWord.op w).toNat ∧ (CmdWord.op w).toNat ≤ 8 then
    if CmdWord.zero w = 0#5 then
      match (CmdWord.op w).toNat with
      | 1 => whenUnusedZero [a8, n, d] (.ok .start)
      | 2 => whenUnusedZero [a8, n, d] (.ok .stop)
      | 3 => whenUnusedZero [a8, n] (.ok (.wrb d))
      | 4 => whenUnusedZero [a8, n, d] (.ok .rdb)
      | 5 => whenUnusedZero [d] (wrtOfLen depth a n)
      | 6 => whenUnusedZero [n, d] (.ok (.rd1 a))
      | 7 => whenUnusedZero [n, d] (.ok (.rd2 a))
      | _ => whenUnusedZero [d] (rdnOfLen depth a n)
    else .error .zeroField
  else .error .reservedOp

/-- The micro-operation a `UOP` word selects, by its fields `CLS = UOP[4:3]` and `SEL = UOP[2:0]` (R75, R76). -/
def decodeUop (w : UopWord) : Except DecodeError Instr :=
  match (w.extractLsb' 3 2).toNat, (w.extractLsb' 0 3).toNat with
  | 0, 0 => .ok .c0
  | 0, 1 => .ok .c1
  | 0, 2 => .ok .cOut
  | 0, 3 => .error .uopUnissued
  | 0, 4 => .error .uopUnissued
  | 1, 0 => .ok .d0
  | 1, 1 => .ok .d1
  | 1, 2 => .ok .dOut
  | 1, 3 => .ok .dIn
  | 1, 4 => .ok .dRead
  | 2, 0 => .ok .wStart
  | 2, 1 => .ok .wStop
  | 2, 2 => .ok .wLow
  | 2, 3 => .ok .wHigh
  | 2, 4 => .ok .wSettle
  | _, _ => .error .uopReserved

/-- The instruction a port's word stands for; `depth` is `BUF_DEPTH` (R90). -/
def decode (depth : Nat) : Code → Except DecodeError Instr
  | .cmd w => decodeCmd depth w
  | .uop w => decodeUop w

/-- The word of a command, its unused fields zero (R71, R73, R82). -/
def encodeCmd (op : BitVec 4) (addr : PeerAddr) (len data : Byte) : Code :=
  .cmd (CmdWord.assemble op 0#5 addr len data)

/-- The word of each instruction, from the tables of R73 and R76. -/
def encode : Instr → Code
  | .start => encodeCmd 0x1#4 0 0 0
  | .stop => encodeCmd 0x2#4 0 0 0
  | .wrb d => encodeCmd 0x3#4 0 0 d
  | .rdb => encodeCmd 0x4#4 0 0 0
  | .wrt a n => encodeCmd 0x5#4 a n 0
  | .rd1 a => encodeCmd 0x6#4 a 0 0
  | .rd2 a => encodeCmd 0x7#4 a 0 0
  | .rdn a n => encodeCmd 0x8#4 a n 0
  | .c0 => .uop 0b00000#5
  | .c1 => .uop 0b00001#5
  | .cOut => .uop 0b00010#5
  | .d0 => .uop 0b01000#5
  | .d1 => .uop 0b01001#5
  | .dOut => .uop 0b01010#5
  | .dIn => .uop 0b01011#5
  | .dRead => .uop 0b01100#5
  | .wStart => .uop 0b10000#5
  | .wStop => .uop 0b10001#5
  | .wLow => .uop 0b10010#5
  | .wHigh => .uop 0b10011#5
  | .wSettle => .uop 0b10100#5

/-- The port word that `nbits` bits of the table make: up to one byte a `UOP` word, which has five bits, else a `CMD`
word (DESIGN CHOICE, log 21: a number too wide for its port is no word of it). -/
def codeOfTable (nbits w : Nat) : Option Code :=
  if nbits ≤ 8 then (if w < 32 then some (.uop (BitVec.ofNat 5 w)) else none)
  else if w < 2 ^ 32 then some (.cmd (BitVec.ofNat 32 w)) else none

/-- The instruction the decoder reads from a row of spec/opcode_table.json, with `BUF_DEPTH` at its default 255 (R9). -/
def decodeTableWord (nbits w : Nat) : Option Instr :=
  match codeOfTable nbits w with
  | none => none
  | some c => (decode Config.default.bufDepth c).toOption

end Sys2Proof
end

