-- ==== Sys2Proof/Machine/State.lean ====
section
/-! DEFINITION. The state of the machine as plain data (10_state.md), its value after reset (R43, R191 to R194), the plain
updates of its fields, and the reasons a step can stop. -/

namespace Sys2Proof.Machine

open Sys2Proof

/-- The mode cell of a pin (R36). -/
inductive PinMode where
  | output
  | inputPullup
deriving DecidableEq, Repr, Inhabited

/-- The state of one pin: a mode and a level latch, independent of one another (R36). -/
structure Pin where
  mode : PinMode
  latch : Level
deriving DecidableEq, Repr, Inhabited

/-- The thirteen micro-operations the sequencer issues (R76). -/
inductive Uop where
  | c0
  | c1
  | cOut
  | d0
  | d1
  | dOut
  | dIn
  | dRead
  | wStart
  | wStop
  | wLow
  | wHigh
  | wSettle
deriving DecidableEq, Repr

/-- One item of the trace: a micro-operation issued, with its answer where it is a `Dr` (R13, R76). -/
structure Event where
  op : Uop
  answer : Option Level
deriving DecidableEq, Repr

/-- The bus state, a function of the pin state (R41). -/
inductive BusState where
  | idle
  | busy
  | transitioning
deriving DecidableEq, Repr

/-- The sequencer position `SEQ` (R33): `READY`, or `RUN(c, k)` with `k` micro-operations of the running command's trace
issued. `answers` are the samples the command has taken so far, oldest first: the locals `r`, `i`, `b` of R30, which
"are part of the position" in a model that steps one micro-operation at a time. -/
inductive Seq where
  | ready
  | run (c : Instr) (k : Nat) (answers : List Level)
deriving DecidableEq, Repr

/-- What the host does at one step (R70, R198; log 2). -/
inductive HostAction where
  /-- nothing is presented. -/
  | quiet
  /-- `CMD = w` is presented; the accepted command runs to its end in this step (R57, R33). -/
  | command (w : CmdWord)
  /-- `CMD = w` is presented; this step is the acceptance alone (R72), and the following steps issue the command's
  micro-operations one by one (R33). -/
  | launch (w : CmdWord)
  /-- `BUF[i] <- v` (R29, R70). -/
  | writeBuf (i : Nat) (v : Byte)
deriving DecidableEq, Repr

/-- Reasons the machine stops with a fault. The block itself has no fault (93_implementation_defined.md: "No case is
treated as fault"); the one below is the host's. -/
inductive Fault where
  /-- Raised by the host's write of a `BUF` entry at or above `BUF_DEPTH`, which does not exist (R29). Safe. -/
  | noBufEntry
deriving DecidableEq, Repr

/-- Reasons a step is refused: the model defines no step there. -/
inductive Refusal where
  /-- Raised by `exec`'s arm of an instruction without a meaning. Safe. -/
  | notModelled (mnemonic : String)
  /-- Raised by the fetch for a word that is no legal encoding: "a model refuses it: no trace, no state change, no
  meaning" (R81, R82, R83, R90; U7, U8). Safe. -/
  | undecodable (why : DecodeError)
  /-- Raised by `WRT` and `RDN` whose `LEN` is out of the range of R90 (U7). Safe. -/
  | lengthOutOfRange
  /-- Raised by a command presented outside the bus state it needs: "outside the contract and a model refuses it"
  (R201, U2). Safe. -/
  | outOfContract (needs : BusState)
  /-- Raised by a command where the premise `ENV_WELL_BEHAVED` fails: "where it fails the model says nothing"
  (R207, U6). Safe. -/
  | illBehavedEnvironment
  /-- Raised by a command where the bus was not at rest when the run started: "the bus must be at rest when the run
  starts" is among "what must be in place before the rules hold" (R200; log 24). Safe. -/
  | busNotAtRestAtLaunch
  /-- Raised by a word offered to the Pin Driver while a command runs: "A model does not interleave any other writer of the
  pins with the trace" (R175, R202, U9). Safe. -/
  | secondWriter
  /-- Raised by the host's write of `BUF` while a command runs, which R29 and R63 do not allow (log 16). Safe. -/
  | bufWhileBusy
deriving DecidableEq, Repr

/-- The state of the machine. -/
structure State where
  /-- the configuration, constant (R20 to R22). -/
  cfg : Config
  /-- `SEQ` (R33). -/
  seq : Seq
  /-- `ADDR` (R24). -/
  addr : PeerAddr
  /-- `LEN` (R24). -/
  len : Byte
  /-- `DATA` (R24). -/
  data : Byte
  /-- `ACKF` (R26, R35). -/
  ackf : Bool
  /-- `RDATA` (R27). -/
  rdata : Byte
  /-- `RWORD` (R28). -/
  rword : Word16
  /-- `BUF[0 .. BUF_DEPTH-1]` (R29), entry 0 first. -/
  buf : List Byte
  /-- the clock pin (R36, R39). -/
  scl : Pin
  /-- the data pin (R36). -/
  sda : Pin
  /-- `UOP_ANS`: the answer of the last `Dr` (R70, R76). -/
  uopAns : Level
  /-- a `UOP` word offered to the Pin Driver by itself, not yet performed (R75; log 15). The words the sequencer puts out
  are the port's output `State.uopOutput`. -/
  uopPort : Option UopWord
  /-- the host's coming actions, one a step (log 2). -/
  host : List HostAction
  /-- the environment's coming answers: whether a peer pulls the data wire low at each coming sample (R40, R42; log 4). -/
  peers : List Bool
  /-- the premise `ENV_WELL_BEHAVED` on the environment (R207; log 11). -/
  wellBehaved : Bool
  /-- the premise that the bus was at rest when the run started: "no peer in the middle of a byte, no peer holding a wire"
  (R200; log 24). -/
  restAtLaunch : Bool
  /-- the free-value counter: the number of free values the machine may have used (log 5). -/
  fresh : Nat
  /-- the trace, newest first (R15, R42; log 18). -/
  log : List Event
deriving DecidableEq, Repr

namespace State

/-- The trace in issue order (R15). -/
def trace (s : State) : List Event := s.log.reverse

/-- The status output `BUSY`: 1 exactly when `SEQ` is not `READY` (R33). -/
def busy (s : State) : Bool := decide (s.seq ≠ .ready)

def setSeq (s : State) (q : Seq) : State := { s with seq := q }
def setAck (s : State) (b : Bool) : State := { s with ackf := b }
def setRData (s : State) (v : Byte) : State := { s with rdata := v }
def setRWord (s : State) (v : Word16) : State := { s with rword := v }
def setBuf (s : State) (b : List Byte) : State := { s with buf := b }
def setOperands (s : State) (a : PeerAddr) (n d : Byte) : State := { s with addr := a, len := n, data := d }
def setScl (s : State) (p : Pin) : State := { s with scl := p }
def setSda (s : State) (p : Pin) : State := { s with sda := p }
def setUopAns (s : State) (l : Level) : State := { s with uopAns := l }
def setUopPort (s : State) (w : Option UopWord) : State := { s with uopPort := w }
def setHost (s : State) (h : List HostAction) : State := { s with host := h }
def setPeers (s : State) (ps : List Bool) : State := { s with peers := ps }
def setFresh (s : State) (n : Nat) : State := { s with fresh := n }
def logged (s : State) (e : Event) : State := { s with log := e :: s.log }

/-- The state right after `Reset()` of an instance built with the configuration `c` (R43, R190 to R194): "the seven
configuration values as given to the instance". The pins, `SEQ`, `ACKF` and the trace `C1 Co D1 Do` are the
spec's. DESIGN CHOICE, log 6: `ADDR`, `LEN`, `DATA`, `RDATA`, `RWORD` and `BUF`, unspecified in the spec, are zero.
Log 7: `UOP_ANS`. Logs 2, 4, 5, 11, 15, 24: the model's own fields. -/
def resetWith (c : Config) : State where
  cfg := c
  seq := .ready
  addr := 0
  len := 0
  data := 0
  ackf := false
  rdata := 0
  rword := 0
  buf := List.replicate c.bufDepth 0
  scl := { mode := .output, latch := .high }
  sda := { mode := .output, latch := .high }
  uopAns := .low
  uopPort := none
  host := []
  peers := []
  wellBehaved := true
  restAtLaunch := true
  fresh := 0
  log := [⟨.dOut, none⟩, ⟨.d1, none⟩, ⟨.cOut, none⟩, ⟨.c1, none⟩]

/-- The state right after reset. DESIGN CHOICE, log 23: the instance was given no configuration, so every parameter is at its
default (R8, R9, R194) and the pins are those of log 8; an instance given another starts in `resetWith`. -/
def reset : State := resetWith Config.default

end State

end Sys2Proof.Machine
end

