-- ==== Sys2Proof/Machine/Operands.lean ====
section
/-! DEFINITION. Operand assembly (R77 to R80, R142), the bits of a byte in wire order (R52), levels and bits (R11), the
operand registers (R25, R72) and the buffer (R29, R152, R153). -/

namespace Sys2Proof.Machine

open Sys2Proof

/-- "a data bit 1 is level `HIGH` and a data bit 0 is level `LOW`" (R11). -/
def levelOfBit (b : Bool) : Level := if b then .high else .low

/-- `readLevel` "returns `true` for `HIGH` and `false` for `LOW`" (R11). -/
def bitOfLevel : Level → Bool
  | .high => true
  | .low => false

/-- The bits of a byte in wire order, `v[7]` first and `v[0]` last (R10, R52). -/
def bitsMsbFirst (v : Byte) : List Bool :=
  [7, 6, 5, 4, 3, 2, 1, 0].map v.getLsbD

/-- One step of `ReadByte`'s loop: `r <- (r << 1) | b` on 8 bits (R79, R140). -/
def shiftIn (r : Byte) (b : Level) : Byte :=
  (r <<< 1) ||| (if bitOfLevel b then 1#8 else 0#8)

/-- The direction of a transaction (R77). -/
inductive Direction where
  | write
  | read
deriving DecidableEq, Repr

/-- The direction bit: 0 for write, 1 for read (R77). -/
def Direction.bit : Direction → BitVec 1
  | .write => 0#1
  | .read => 1#1

/-- The address byte `{ADDR[6:0], dir}` (R77). -/
def addressByte (a : PeerAddr) (dir : Direction) : Byte := a ++ dir.bit

/-- The received word `(zext_16(b0) << 8) | zext_16(b1)` (R53, R80). -/
def receivedWord (b0 b1 : Byte) : Word16 := (b0.setWidth 16 <<< 8) ||| b1.setWidth 16

/-- Acceptance loads `ADDR`, `LEN` and `DATA` from the command word's fields (R25, R72). -/
def State.loadOperands (s : State) (w : CmdWord) : State :=
  s.setOperands (CmdWord.addr w) (CmdWord.len w) (CmdWord.data w)

/-- The command word of an instruction; a micro-operation has none, and the zero word stands for it (it is no command:
R81). -/
def commandWord (i : Instr) : CmdWord :=
  match encode i with
  | .cmd w => w
  | .uop _ => 0#32

/-- `BUF[0 .. n-1]`, in index order (R54, R152). -/
def State.bufPrefix (s : State) (n : Byte) : List Byte := s.buf.take n.toNat

/-- The buffer with its first entries written, "entries `LEN` and above unchanged" (R29, R153). -/
def overwritePrefix (bytes buf : List Byte) : List Byte :=
  (bytes ++ buf.drop bytes.length).take buf.length

end Sys2Proof.Machine
end

