-- ==== Sys2Proof/Machine/Flags.lean ====
section
/-! DEFINITION. The one flag, `ACKF` (R26, R35), and what a sampled acknowledge means (R11, R130). -/

namespace Sys2Proof.Machine

open Sys2Proof

/-- "a sampled low means the receiver acknowledged (ACK), a sampled high means not-acknowledged (NACK)" (R11, R130). -/
def acknowledged (sample : Level) : Bool :=
  match sample with
  | .low => true
  | .high => false

/-- `ACKF <- 1` on acknowledge or success, `ACKF <- 0` otherwise (R26). -/
def State.writeAckf (s : State) (success : Bool) : State := s.setAck success

end Sys2Proof.Machine
end

