-- ==== Sys2Proof/Machine/Ops.lean ====
section
/-! DEFINITION. The shared operations: the Pin Driver's calls (R13, R36 to R38), the wires (R40), the bus state (R41), the
effect of one micro-operation (R76), the one error (R177), and the check a command passes before it is accepted (R72,
R90, R201, R207). -/

namespace Sys2Proof.Machine

open Sys2Proof

/-! ### The Pin Driver's calls -/

/-- `p.set(l)`: "does `p.latch <- l` and changes nothing else" (R37). -/
def Pin.set (p : Pin) (l : Level) : Pin := { p with latch := l }

/-- `p.out()`: "does `p.mode <- OUTPUT` and changes nothing else" (R37). -/
def Pin.out (p : Pin) : Pin := { p with mode := .output }

/-- `p.in()`: "does `p.mode <- INPUT_PULLUP` and changes nothing else" (R37). -/
def Pin.inPullup (p : Pin) : Pin := { p with mode := .inputPullup }

/-- The calls of the Pin Driver and the delay, with the pin identity or the duration the configuration gives them (R7,
R13, R20, R101). -/
inductive DriverCall where
  | setLevel (pin : Nat) (l : Level)
  | setOutputMode (pin : Nat)
  | setInputModeWithPullUp (pin : Nat)
  | readLevel (pin : Nat)
  | delay (ticks : Nat)
deriving DecidableEq, Repr

/-- The call each micro-operation is, on the bound pin identities (R13's table, R20, R76). -/
def driverCall (c : Config) : Uop → DriverCall
  | .c0 => .setLevel c.pinScl .low
  | .c1 => .setLevel c.pinScl .high
  | .cOut => .setOutputMode c.pinScl
  | .d0 => .setLevel c.pinSda .low
  | .d1 => .setLevel c.pinSda .high
  | .dOut => .setOutputMode c.pinSda
  | .dIn => .setInputModeWithPullUp c.pinSda
  | .dRead => .readLevel c.pinSda
  | .wStart => .delay c.tStartHold
  | .wStop => .delay c.tStopHold
  | .wLow => .delay c.tClkLowHold
  | .wHigh => .delay c.tClkHighHold
  | .wSettle => .delay c.tInputSettle

/-- The word each micro-operation puts on the Pin Driver port, its code in the table of R76 (R75). -/
def uopWord : Uop → UopWord
  | .c0 => 0x00#5
  | .c1 => 0x01#5
  | .cOut => 0x02#5
  | .d0 => 0x08#5
  | .d1 => 0x09#5
  | .dOut => 0x0A#5
  | .dIn => 0x0B#5
  | .dRead => 0x0C#5
  | .wStart => 0x10#5
  | .wStop => 0x11#5
  | .wLow => 0x12#5
  | .wHigh => 0x13#5
  | .wSettle => 0x14#5

/-- The output of the Pin Driver port: "one 5-bit micro-operation word `UOP` per micro-operation, in trace order" (R70). The
trace holds the micro-operations, so the words are derived from it. -/
def State.uopOutput (s : State) : List UopWord := s.trace.map fun e => uopWord e.op

/-! ### The wires and the bus state -/

/-- The row of `resolve_sda` for a pin's mode and latch (R40). -/
def wireRow (r : SdaResolve) (p : Pin) : WireLevels :=
  match p.mode, p.latch with
  | .inputPullup, .low => r.inputLow
  | .inputPullup, .high => r.inputHigh
  | .output, .low => r.outputLow
  | .output, .high => r.outputHigh

/-- `resolve_sda(mode, latch, peer_low)`: a level, or unspecified (R40, D19). -/
def wireEntry (r : SdaResolve) (p : Pin) (peerLow : Bool) : Option Level :=
  if peerLow then (wireRow r p).pulled else (wireRow r p).released

/-- The level of the data wire (R40); where `resolve_sda` leaves it unspecified, the free value `n` (log 14). -/
def wireLevel (r : SdaResolve) (p : Pin) (peerLow : Bool) (n : Nat) : Level :=
  match wireEntry r p peerLow with
  | some l => l
  | none => Config.freeWire n

/-- `scl_wire = SCL.latch` (R40). -/
def State.sclWire (s : State) : Level := s.scl.latch

/-- `BusState` (R41). -/
def busStateOf (scl sda : Pin) : BusState :=
  if scl = ⟨.output, .high⟩ ∧ sda = ⟨.output, .high⟩ then .idle
  else if scl = ⟨.output, .low⟩ ∧ sda = ⟨.output, .low⟩ then .busy
  else .transitioning

/-- `BusState` of the machine's pins (R41). -/
def State.busState (s : State) : BusState := busStateOf s.scl s.sda

/-! ### The environment's answers -/

/-- Whether a peer pulls the data wire low at the `j`-th sample from now, counting from 0: the script's entry, then the
free value (R40, R42; log 4). -/
def State.peerLowAt (s : State) (j : Nat) : Bool :=
  match s.peers[j]? with
  | some b => b
  | none => Config.freePeerLow (s.fresh + j)

/-- `sda_wire` at the moment of the next sample (R40). -/
def State.sdaWire (s : State) : Level := wireLevel s.cfg.resolveSda s.sda (s.peerLowAt 0) s.fresh

/-- `b <- SDA.read()`: the level of the data wire goes to `UOP_ANS`; no pin state changes (R38, R40, R76). The
environment moves on to its next answer. -/
def State.sampleSda (s : State) : State :=
  ((s.setUopAns s.sdaWire).setPeers s.peers.tail).setFresh (s.fresh + 1)

/-! ### One micro-operation -/

/-- What a micro-operation does to the clock pin (R37, R38, R76, R101). -/
def sclAfter (u : Uop) (p : Pin) : Pin :=
  match u with
  | .c0 => p.set .low
  | .c1 => p.set .high
  | .cOut => p.out
  | .d0 | .d1 | .dOut | .dIn | .dRead | .wStart | .wStop | .wLow | .wHigh | .wSettle => p

/-- What a micro-operation does to the data pin (R37, R38, R76, R101). -/
def sdaAfter (u : Uop) (p : Pin) : Pin :=
  match u with
  | .d0 => p.set .low
  | .d1 => p.set .high
  | .dOut => p.out
  | .dIn => p.inPullup
  | .c0 | .c1 | .cOut | .dRead | .wStart | .wStop | .wLow | .wHigh | .wSettle => p

/-- The effect of a micro-operation: a `Dr` takes a sample, every other one acts on the pins alone (R37, R38, R101). -/
def State.actUop (s : State) (u : Uop) : State :=
  if u = .dRead then s.sampleSda
  else (s.setScl (sclAfter u s.scl)).setSda (sdaAfter u s.sda)

/-- The item a micro-operation leaves in the trace; a `Dr` carries its answer (R76). -/
def eventOf (u : Uop) (answer : Level) : Event :=
  { op := u, answer := if u = .dRead then some answer else none }

/-- One micro-operation is issued: its effect, and one item more in the trace, which is one word more on the Pin Driver port
(R13, R61, R70). -/
def State.perform (s : State) (u : Uop) : State :=
  (s.actUop u).logged (eventOf u (s.actUop u).uopAns)

/-! ### The error -/

/-- `raise Nack` (R177): `ACKF <- 0`, no further micro-operation, `SEQ <- READY`. It saves nothing and goes to no handler
(R178, R179), and there is no return from it (R180): the host presents a new command. -/
def State.raiseNack (s : State) : State := (s.writeAckf false).setSeq .ready

/-- A failed read leaves `RDATA` unspecified (R27, U3; log 13). -/
def State.freeRData (s : State) : State := (s.setRData (Config.freeByte s.fresh)).setFresh (s.fresh + 1)

/-- A failed read leaves `RWORD` unspecified (R28, U3; log 13). -/
def State.freeRWord (s : State) : State := (s.setRWord (Config.freeWord s.fresh)).setFresh (s.fresh + 1)

/-- A failed read leaves `BUF[0 .. n-1]` unspecified (R29, U3; log 13). -/
def State.freeBuf (s : State) (n : Byte) : State :=
  (s.setBuf (overwritePrefix ((List.range n.toNat).map fun i => Config.freeByte (s.fresh + i)) s.buf)).setFresh
    (s.fresh + n.toNat)

/-! ### Acceptance -/

/-- The bus state each command needs (R201). A micro-operation needs none: it is no command. -/
def neededBusState : Instr → Option BusState
  | .start | .wrt _ _ | .rd1 _ | .rd2 _ | .rdn _ _ => some .idle
  | .stop | .wrb _ | .rdb => some .busy
  | .c0 | .c1 | .cOut | .d0 | .d1 | .dOut | .dIn | .dRead => none
  | .wStart | .wStop | .wLow | .wHigh | .wSettle => none

/-- What is missing of the premises on the environment: `ENV_WELL_BEHAVED` (R207; log 11), the bus at rest at launch (R200;
log 24). -/
def State.environmentObjection (s : State) : Option Refusal :=
  if s.wellBehaved = false then some .illBehavedEnvironment
  else if s.restAtLaunch = false then some .busNotAtRestAtLaunch
  else none

/-- Why a model refuses a command presented while `SEQ = READY`: an operand out of range (R90), a premise on the environment
that fails (R200, R207), a bus state outside the contract (R201). -/
def State.objection (s : State) (i : Instr) : Option Refusal :=
  if i.wellFormed s.cfg.bufDepth = false then some .lengthOutOfRange
  else
    match s.environmentObjection with
    | some r => some r
    | none =>
      match neededBusState i with
      | some b => if s.busState = b then none else some (.outOfContract b)
      | none => none

end Sys2Proof.Machine
end

