-- ==== Sys2Proof/Machine/Microcode.lean ====
section
/-! DEFINITION. The subroutines of the spec's pseudocode (R104 to R107, R120, R121, R130, R140, R155, R191) as
micro-programs: the ordered micro-operations a command issues, branching on the answers of its samples (R15). A
micro-program is run to its end in one step (`Prog.run`) or one micro-operation a step (`Prog.after`, R33). -/

namespace Sys2Proof.Machine

open Sys2Proof

/-- A micro-program with a result: it ends, or issues a micro-operation that is no `Dr` and goes on, or issues a `Dr` and
goes on with its answer. -/
inductive Prog (α : Type) where
  | ret (a : α)
  | issue (u : Uop) (rest : Prog α)
  | sample (rest : Level → Prog α)

/-- A micro-program followed by another that uses its result. -/
def Prog.bind {α β : Type} (p : Prog α) (f : α → Prog β) : Prog β :=
  match p with
  | .ret a => f a
  | .issue u rest => .issue u (rest.bind f)
  | .sample rest => .sample fun b => (rest b).bind f

/-- A micro-program followed by another. -/
def Prog.andThen {α β : Type} (p : Prog α) (q : Prog β) : Prog β := p.bind fun _ => q

/-- The micro-operations `us` in order. -/
def issueAll (us : List Uop) : Prog Unit := us.foldr .issue (.ret ())

/-- The micro-program runs to its end: each micro-operation takes effect before the next is issued (R61). -/
def Prog.run {α : Type} (p : Prog α) (s : State) : α × State :=
  match p with
  | .ret a => (a, s)
  | .issue u rest => rest.run (s.perform u)
  | .sample rest => (rest (s.perform .dRead).uopAns).run (s.perform .dRead)

/-- What is left of the micro-program when `k` micro-operations have been issued and the samples among them were
`answers` (R33). -/
def Prog.after {α : Type} (p : Prog α) (k : Nat) (answers : List Level) : Prog α :=
  match k, p, answers with
  | 0, p, _ => p
  | _ + 1, .ret a, _ => .ret a
  | k + 1, .issue _ rest, bs => rest.after k bs
  | k + 1, .sample rest, b :: bs => (rest b).after k bs
  | _ + 1, .sample rest, [] => .sample rest

/-! ### The clock primitives -/

/-- `RaiseClock()`: `wL C1 wH` (R104). -/
def raiseClock : Prog Unit := issueAll [.wLow, .c1, .wHigh]

/-- `LowerClock()`: `C0` (R105). -/
def lowerClock : Prog Unit := issueAll [.c0]

/-- `PulseClock()`: `wL C1 wH C0` (R106). -/
def pulseClock : Prog Unit := raiseClock.andThen lowerClock

/-- `PulseClockSample()`: `wL C1 wH Dr C0`, the sample after the high hold and before the falling edge (R107). -/
def pulseClockSample : Prog Level :=
  raiseClock.andThen (.sample fun b => lowerClock.andThen (.ret b))

/-! ### START and STOP -/

/-- `Start()`: `D0 wS C0` (R120). -/
def startSeq : Prog Unit := (issueAll [.d0, .wStart]).andThen lowerClock

/-- `Stop()`: `wL C1 wH wP D1` (R121). -/
def stopSeq : Prog Unit := raiseClock.andThen (issueAll [.wStop, .d1])

/-- `Reset()`: `C1 Co D1 Do` (R191). -/
def resetSeq : Prog Unit := issueAll [.c1, .cOut, .d1, .dOut]

/-! ### The byte operations -/

/-- `SDA.set(HIGH if v[i] = 1 else LOW)`, issued for every bit (R37, R130). -/
def setSdaUop (b : Bool) : Uop :=
  match levelOfBit b with
  | .high => .d1
  | .low => .d0

/-- One data bit of `WriteByte`: the level, then a pulse (R130). -/
def sendBit (b : Bool) : Prog Unit := (issueAll [setSdaUop b]).andThen pulseClock

/-- The data bits of a byte in the order given (R130). -/
def sendBits : List Bool → Prog Unit
  | [] => .ret ()
  | b :: bs => (sendBit b).andThen (sendBits bs)

/-- `WriteByte(v)` (R130, R133): eight bits, the acknowledge sample, `D0 Do`, and `Stop()` on a refusal. -/
def writeByte (v : Byte) : Prog Bool :=
  (sendBits (bitsMsbFirst v)).andThen <|
    (issueAll [.dIn, .wSettle]).andThen <|
      pulseClockSample.bind fun b =>
        (issueAll [.d0, .dOut]).andThen <|
          if acknowledged b then .ret true else stopSeq.andThen (.ret false)

/-- The sampled bits of `ReadByte`: `n` more shifted into `r` (R140). -/
def receiveBits : Nat → Byte → Prog Byte
  | 0, r => .ret r
  | n + 1, r => pulseClockSample.bind fun b => receiveBits n (shiftIn r b)

/-- `ReadByte()` (R140, R144): eight samples, then the acknowledge this side generates. -/
def readByte : Prog Byte :=
  (issueAll [.dIn, .wSettle]).andThen <|
    (receiveBits 8 0#8).bind fun r =>
      (issueAll [.d0, .dOut]).andThen <| pulseClock.andThen (.ret r)

/-! ### The transactions -/

/-- The data phase of a write: the bytes in order, ended by the first refusal (R154, R176). -/
def writeBytes : List Byte → Prog Bool
  | [] => .ret true
  | v :: vs => (writeByte v).bind fun ok => if ok then writeBytes vs else .ret false

/-- The data phase of a read: `n` bytes in order (R155). -/
def readBytes : Nat → Prog (List Byte)
  | 0 => .ret []
  | n + 1 => readByte.bind fun v => (readBytes n).bind fun vs => .ret (v :: vs)

/-- The write transaction: whether every byte was acknowledged (R154). The transaction's own `Stop()` is on that path
only (R162). -/
def writeTxn (a : PeerAddr) (bytes : List Byte) : Prog Bool :=
  startSeq.andThen <|
    (writeBytes (addressByte a .write :: bytes)).bind fun ok =>
      if ok then stopSeq.andThen (.ret true) else .ret false

/-- `ReadTxn(N)`: the bytes read, or nothing where the address byte was not acknowledged (R155). -/
def readTxn (a : PeerAddr) (n : Nat) : Prog (Option (List Byte)) :=
  startSeq.andThen <|
    (writeByte (addressByte a .read)).bind fun ok =>
      if ok then (readBytes n).bind fun vs => stopSeq.andThen (.ret (some vs)) else .ret none

/-! ### The commands: each ends with the register writes of its rule -/

/-- `START`: writes no register (R122). -/
def startBody : Prog (State → State) := startSeq.andThen (.ret id)

/-- `STOP`: writes no register (R123). -/
def stopBody : Prog (State → State) := stopSeq.andThen (.ret id)

/-- `WRB`: `ACKF <- 1 if WriteByte(DATA) else 0` (R131). -/
def wrbBody (d : Byte) : Prog (State → State) :=
  (writeByte d).bind fun ok => .ret fun s => s.writeAckf ok

/-- `RDB`: `RDATA <- ReadByte()`; `ACKF` is unchanged (R141). -/
def rdbBody : Prog (State → State) := readByte.bind fun v => .ret fun s => s.setRData v

/-- `WRT`: `ACKF <- 1`, or `raise Nack` (R154). -/
def wrtBody (a : PeerAddr) (bytes : List Byte) : Prog (State → State) :=
  (writeTxn a bytes).bind fun ok =>
    .ret fun s => if ok then s.writeAckf true else s.raiseNack

/-- `RD1`: `RDATA <- bytes[0]` and `ACKF <- 1`; on failure `raise Nack` and `RDATA` any value (R156). -/
def rd1Body (a : PeerAddr) : Prog (State → State) :=
  (readTxn a 1).bind fun r =>
    .ret fun s =>
      match r with
      | some vs => (s.setRData (vs.getD 0 0#8)).writeAckf true
      | none => s.freeRData.raiseNack

/-- `RD2`: `RWORD <- {bytes[0], bytes[1]}` and `ACKF <- 1`; on failure `raise Nack` and `RWORD` any value (R157). -/
def rd2Body (a : PeerAddr) : Prog (State → State) :=
  (readTxn a 2).bind fun r =>
    .ret fun s =>
      match r with
      | some vs => (s.setRWord (receivedWord (vs.getD 0 0#8) (vs.getD 1 0#8))).writeAckf true
      | none => s.freeRWord.raiseNack

/-- `RDN`: `BUF[0..LEN-1] <- bytes` and `ACKF <- 1`; on failure `raise Nack` and those entries any value (R158; log 19). -/
def rdnBody (a : PeerAddr) (n : Byte) : Prog (State → State) :=
  (readTxn a n.toNat).bind fun r =>
    .ret fun s =>
      match r with
      | some vs => (s.setBuf (overwritePrefix vs s.buf)).writeAckf true
      | none => (s.freeBuf n).raiseNack

/-- The micro-operation a constructor of the Pin Driver port stands for (R76). -/
def uopOf : Instr → Option Uop
  | .c0 => some .c0
  | .c1 => some .c1
  | .cOut => some .cOut
  | .d0 => some .d0
  | .d1 => some .d1
  | .dOut => some .dOut
  | .dIn => some .dIn
  | .dRead => some .dRead
  | .wStart => some .wStart
  | .wStop => some .wStop
  | .wLow => some .wLow
  | .wHigh => some .wHigh
  | .wSettle => some .wSettle
  | .start | .stop | .wrb _ | .rdb | .wrt _ _ | .rd1 _ | .rd2 _ | .rdn _ _ => none

/-- The micro-program of a command, over the operand registers and the buffer as acceptance left them (R24, R63). A
micro-operation is no command; for it the program is empty, and no position `RUN` holds one. -/
def bodyOf (i : Instr) (s : State) : Prog (State → State) :=
  match i with
  | .start => startBody
  | .stop => stopBody
  | .wrb _ => wrbBody s.data
  | .rdb => rdbBody
  | .wrt _ _ => wrtBody s.addr (s.bufPrefix s.len)
  | .rd1 _ => rd1Body s.addr
  | .rd2 _ => rd2Body s.addr
  | .rdn _ _ => rdnBody s.addr s.len
  | .c0 | .c1 | .cOut | .d0 | .d1 | .dOut | .dIn | .dRead => .ret id
  | .wStart | .wStop | .wLow | .wHigh | .wSettle => .ret id

/-! ### A command as one step -/

/-- The command `i`, presented as one step of the host (R57, R72, R33): not accepted while another runs, refused outside
its contract, else its operands are loaded, its micro-program `body` is run to the end and its registers written. -/
def State.runCommand (s : State) (i : Instr) (body : State → Prog (State → State)) :
    Host.Outcome State Fault Refusal :=
  if s.busy then .next s
  else
    match s.objection i with
    | some r => .refused r
    | none =>
      let t := s.loadOperands (commandWord i)
      .next (((body t).run t).1 ((body t).run t).2)

end Sys2Proof.Machine
end

