-- ==== Sys2Proof/Machine/PinDriver.lean ====
section
/-! DEFINITION. The meanings of the thirteen micro-operations of the Pin Driver port (R37, R38, R76, R101). -/

namespace Sys2Proof.Machine

open Sys2Proof

/-- `C0`: `SCL.latch <- LOW` (R37, R76). -/
def execC0 (s : State) : Host.Outcome State Fault Refusal := .next (s.perform .c0)

/-- `C1`: `SCL.latch <- HIGH` (R37, R76). -/
def execC1 (s : State) : Host.Outcome State Fault Refusal := .next (s.perform .c1)

/-- `Co`: `SCL.mode <- OUTPUT` (R37, R76). -/
def execCOut (s : State) : Host.Outcome State Fault Refusal := .next (s.perform .cOut)

/-- `D0`: `SDA.latch <- LOW` (R37, R76). -/
def execD0 (s : State) : Host.Outcome State Fault Refusal := .next (s.perform .d0)

/-- `D1`: `SDA.latch <- HIGH` (R37, R76). -/
def execD1 (s : State) : Host.Outcome State Fault Refusal := .next (s.perform .d1)

/-- `Do`: `SDA.mode <- OUTPUT` (R37, R76). -/
def execDOut (s : State) : Host.Outcome State Fault Refusal := .next (s.perform .dOut)

/-- `Di`: `SDA.mode <- INPUT_PULLUP` (R37, R76). -/
def execDIn (s : State) : Host.Outcome State Fault Refusal := .next (s.perform .dIn)

/-- `Dr`: `b <- UOP_ANS`, the level of the data wire (R38, R76). -/
def execDRead (s : State) : Host.Outcome State Fault Refusal := .next (s.perform .dRead)

/-- `wS`: `wait(T_START_HOLD)`, "changes no register and no pin state" (R101). -/
def execWStart (s : State) : Host.Outcome State Fault Refusal := .next (s.perform .wStart)

/-- `wP`: `wait(T_STOP_HOLD)` (R101). -/
def execWStop (s : State) : Host.Outcome State Fault Refusal := .next (s.perform .wStop)

/-- `wL`: `wait(T_CLK_LOW_HOLD)` (R101). -/
def execWLow (s : State) : Host.Outcome State Fault Refusal := .next (s.perform .wLow)

/-- `wH`: `wait(T_CLK_HIGH_HOLD)` (R101). -/
def execWHigh (s : State) : Host.Outcome State Fault Refusal := .next (s.perform .wHigh)

/-- `wI`: `wait(T_INPUT_SETTLE_EXTRA)` (R101). -/
def execWSettle (s : State) : Host.Outcome State Fault Refusal := .next (s.perform .wSettle)

end Sys2Proof.Machine
end

