-- ==== Sys2Proof/Machine/Primitive.lean ====
section
/-! DEFINITION. The meanings of the four byte-level commands `START`, `STOP`, `WRB`, `RDB` (R122, R123, R131, R141). -/

namespace Sys2Proof.Machine

open Sys2Proof

/-- `START` (R122): from `Idle`. -/
def execStart (s : State) : Host.Outcome State Fault Refusal :=
  s.runCommand .start (bodyOf .start)

/-- `STOP` (R123): from `Busy`. -/
def execStop (s : State) : Host.Outcome State Fault Refusal :=
  s.runCommand .stop (bodyOf .stop)

/-- `WRB d` (R131): from `Busy`. -/
def execWrb (d : Byte) (s : State) : Host.Outcome State Fault Refusal :=
  s.runCommand (.wrb d) (bodyOf (.wrb d))

/-- `RDB` (R141): from `Busy`. -/
def execRdb (s : State) : Host.Outcome State Fault Refusal :=
  s.runCommand .rdb (bodyOf .rdb)

end Sys2Proof.Machine
end

