-- ==== Sys2Proof/Machine/Transaction.lean ====
section
/-! DEFINITION. The meanings of the four transactions `WRT`, `RD1`, `RD2`, `RDN` (R154 to R158). -/

namespace Sys2Proof.Machine

open Sys2Proof

/-- `WRT a, n` (R154): from `Idle`; `LEN` up to `BUF_DEPTH` (R90). -/
def execWrt (a : PeerAddr) (n : Byte) (s : State) : Host.Outcome State Fault Refusal :=
  s.runCommand (.wrt a n) (bodyOf (.wrt a n))

/-- `RD1 a` (R156): from `Idle`. -/
def execRd1 (a : PeerAddr) (s : State) : Host.Outcome State Fault Refusal :=
  s.runCommand (.rd1 a) (bodyOf (.rd1 a))

/-- `RD2 a` (R157): from `Idle`. -/
def execRd2 (a : PeerAddr) (s : State) : Host.Outcome State Fault Refusal :=
  s.runCommand (.rd2 a) (bodyOf (.rd2 a))

/-- `RDN a, n` (R158): from `Idle`; `LEN` from 1 to `BUF_DEPTH` (R90). -/
def execRdn (a : PeerAddr) (n : Byte) (s : State) : Host.Outcome State Fault Refusal :=
  s.runCommand (.rdn a n) (bodyOf (.rdn a n))

end Sys2Proof.Machine
end

