-- ==== Sys2Proof/Machine/Dispatch.lean ====
section
/-! DEFINITION. One arm per instruction. -/

namespace Sys2Proof.Machine

open Sys2Proof

def exec (i : Instr) (s : State) : Host.Outcome State Fault Refusal :=
  match i with
  | .start => Sys2Proof.Machine.execStart s
  | .stop => Sys2Proof.Machine.execStop s
  | .wrb d => Sys2Proof.Machine.execWrb d s
  | .rdb => Sys2Proof.Machine.execRdb s
  | .wrt a n => Sys2Proof.Machine.execWrt a n s
  | .rd1 a => Sys2Proof.Machine.execRd1 a s
  | .rd2 a => Sys2Proof.Machine.execRd2 a s
  | .rdn a n => Sys2Proof.Machine.execRdn a n s
  | .c0 => Sys2Proof.Machine.execC0 s
  | .c1 => Sys2Proof.Machine.execC1 s
  | .cOut => Sys2Proof.Machine.execCOut s
  | .d0 => Sys2Proof.Machine.execD0 s
  | .d1 => Sys2Proof.Machine.execD1 s
  | .dOut => Sys2Proof.Machine.execDOut s
  | .dIn => Sys2Proof.Machine.execDIn s
  | .dRead => Sys2Proof.Machine.execDRead s
  | .wStart => Sys2Proof.Machine.execWStart s
  | .wStop => Sys2Proof.Machine.execWStop s
  | .wLow => Sys2Proof.Machine.execWLow s
  | .wHigh => Sys2Proof.Machine.execWHigh s
  | .wSettle => Sys2Proof.Machine.execWSettle s

end Sys2Proof.Machine
end

