-- ==== Sys2Proof/Machine/Trace.lean ====
section
/-! DEFINITION. What can be read off a trace: its untimed form (R103), its pulses and samples (R110), its lower bound on
duration (R101, R214), and the START and STOP conditions in it (R16, R109, R124). -/

namespace Sys2Proof.Machine

open Sys2Proof

/-- The five waits (R100). -/
def Uop.isWait : Uop → Bool
  | .wStart | .wStop | .wLow | .wHigh | .wSettle => true
  | .c0 | .c1 | .cOut | .d0 | .d1 | .dOut | .dIn | .dRead => false

/-- The micro-operations of a trace, without the answers. -/
def uopsOf (es : List Event) : List Uop := es.map Event.op

/-- The untimed trace: every `w` item erased (R103). -/
def untimed (us : List Uop) : List Uop := us.filter fun u => !u.isWait

/-- The number of samples (`Dr`) of a trace. -/
def sampleCount (us : List Uop) : Nat := us.count .dRead

/-- Pulses: "one `C1` followed by the next `C0`" (R110). `high` says that a `C1` waits for its `C0`. -/
def pulsesFrom (high : Bool) : List Uop → Nat
  | [] => 0
  | .c1 :: us => pulsesFrom true us
  | .c0 :: us => (if high then 1 else 0) + pulsesFrom false us
  | _ :: us => pulsesFrom high us

/-- The pulses of a trace that begins before any `C1` (R110). -/
def pulses (us : List Uop) : Nat := pulsesFrom false us

/-- The ticks a micro-operation asks for: its constant for a wait, none for a Pin Driver call (R101). -/
def waitTicks (c : Config) (u : Uop) : Nat :=
  match driverCall c u with
  | .delay t => t
  | .setLevel _ _ | .setOutputMode _ | .setInputModeWithPullUp _ | .readLevel _ => 0

/-- The lower bound on the duration of a trace (R214). -/
def minDuration (c : Config) (us : List Uop) : Nat := (us.map (waitTicks c)).sum

/-- A timing of a trace, each micro-operation with the tick at which it takes effect, respects the waits: the item after
`wait(T)` comes no sooner than `T` ticks after it, and no item before its predecessor (R101, R61). There is no upper
bound. -/
def timingAllowed (c : Config) : List (Uop × Nat) → Prop
  | [] => True
  | [_] => True
  | (u, t) :: (v, t') :: rest => t + waitTicks c u ≤ t' ∧ timingAllowed c ((v, t') :: rest)

/-- What this side drives on the data wire: its latch in `OUTPUT` mode, nothing in input mode (R37). -/
def Pin.drive (p : Pin) : Option Level :=
  match p.mode with
  | .output => some p.latch
  | .inputPullup => none

/-- A change of the data pin while the clock is high (R16, R109). -/
inductive Condition where
  /-- high to low: the START condition. -/
  | start
  /-- low to high: the STOP condition. -/
  | stop
  /-- released, or taken back: neither. -/
  | other
deriving DecidableEq, Repr

/-- The condition a micro-operation makes on the pins it is issued on, if any (R16, R109). -/
def conditionOf (u : Uop) (scl sda : Pin) : Option Condition :=
  if scl.latch = .high then
    match sda.drive, (sdaAfter u sda).drive with
    | some .high, some .low => some .start
    | some .low, some .high => some .stop
    | some .high, some .high => none
    | some .low, some .low => none
    | none, none => none
    | some _, none => some .other
    | none, some _ => some .other
  else none

/-- The conditions of a trace, in order, from the pins before it. -/
def conditions (scl sda : Pin) : List Uop → List Condition
  | [] => []
  | u :: us => (conditionOf u scl sda).toList ++ conditions (sclAfter u scl) (sdaAfter u sda) us

/-- The pins after a trace (R61): the micro-operations applied in order. -/
def pinsAfter (scl sda : Pin) : List Uop → Pin × Pin
  | [] => (scl, sda)
  | u :: us => pinsAfter (sclAfter u scl) (sdaAfter u sda) us

/-- The level on the data pin's latch at each rising clock edge of a trace, in order: what is sent (R106). -/
def levelsAtRise (sda : Pin) : List Uop → List Level
  | [] => []
  | .c1 :: us => sda.latch :: levelsAtRise sda us
  | u :: us => levelsAtRise (sdaAfter u sda) us

/-- The items a step or a run has added to the trace of `s`, in issue order. -/
def State.newEvents (s t : State) : List Event := (t.log.take (t.log.length - s.log.length)).reverse

end Sys2Proof.Machine
end

