-- ==== Sys2Proof/Machine/Fetch.lean ====
section
/-! DEFINITION. What the machine does next: the next micro-operation of a running command (R33), a word offered to the
Pin Driver (R75), or the host's action (R72, R29). -/

namespace Sys2Proof.Machine

open Sys2Proof

/-- What the fetch finds: an instruction to run on a state, or an outcome that needs none. -/
inductive Fetched where
  | instr (i : Instr) (s : State)
  | outcome (o : Host.Outcome State Fault Refusal)

/-! ### A running command, one micro-operation a step -/

/-- After its `k`-th micro-operation a command goes on in `RUN(c, k)`, or, where nothing of its program is left, writes
its registers and returns to `READY` (R33). -/
def State.settle (s : State) (c : Instr) (k : Nat) (answers : List Level) :
    Prog (State → State) → State
  | .ret f => (f s).setSeq .ready
  | .issue _ _ => s.setSeq (.run c k answers)
  | .sample _ => s.setSeq (.run c k answers)

/-- `RUN(c, k)` issues the micro-operation of index `k` (R33, R61). -/
def State.issueNext (s : State) (c : Instr) (k : Nat) (answers : List Level) : State :=
  match (bodyOf c s).after k answers with
  | .ret f => (f s).setSeq .ready
  | .issue u rest => (s.perform u).settle c (k + 1) answers rest
  | .sample rest =>
    let t := s.perform .dRead
    t.settle c (k + 1) (answers ++ [t.uopAns]) (rest t.uopAns)

/-- A step while `BUSY = 1`: one micro-operation. A word the host presents "is not accepted and has no effect" and is not
kept (R34, R72); a write of `BUF` is refused (R29, R63; log 16), and every step where a premise on the environment fails
(R200, R207). -/
def State.busyStep (s : State) (c : Instr) (k : Nat) (answers : List Level) :
    Host.Outcome State Fault Refusal :=
  match s.environmentObjection with
  | some r => .refused r
  | none =>
    match s.host with
    | .writeBuf _ _ :: _ => .refused .bufWhileBusy
    | .quiet :: hs => .next ((s.setHost hs).issueNext c k answers)
    | .command _ :: hs => .next ((s.setHost hs).issueNext c k answers)
    | .launch _ :: hs => .next ((s.setHost hs).issueNext c k answers)
    | [] => .next (s.issueNext c k answers)

/-! ### The host -/

/-- Acceptance alone (R72): the operand registers are loaded and the command stands before its first micro-operation. -/
def State.accept (s : State) (i : Instr) : Host.Outcome State Fault Refusal :=
  match s.objection i with
  | some r => .refused r
  | none => .next ((s.loadOperands (commandWord i)).setSeq (.run i 0 []))

/-- The host writes `BUF[i]` while `BUSY = 0` (R29, R70). -/
def State.hostWriteBuf (s : State) (i : Nat) (v : Byte) : Host.Outcome State Fault Refusal :=
  if i < s.cfg.bufDepth then .next (s.setBuf (s.buf.set i v)) else .fault .noBufEntry

/-- A step while `SEQ = READY`: the host's next action; with none the machine stays as it is (log 2). -/
def State.readyFetch (s : State) : Fetched :=
  match s.host with
  | [] => .outcome (.next s)
  | .quiet :: hs => .outcome (.next (s.setHost hs))
  | .writeBuf i v :: hs => .outcome ((s.setHost hs).hostWriteBuf i v)
  | .command w :: hs =>
    match decode s.cfg.bufDepth (.cmd w) with
    | .ok i => .instr i (s.setHost hs)
    | .error e => .outcome (.refused (.undecodable e))
  | .launch w :: hs =>
    match decode s.cfg.bufDepth (.cmd w) with
    | .ok i => .outcome ((s.setHost hs).accept i)
    | .error e => .outcome (.refused (.undecodable e))

/-- A word offered to the Pin Driver by itself, while no command runs (log 15). -/
def State.uopFetch (s : State) (w : UopWord) : Fetched :=
  match decode s.cfg.bufDepth (.uop w) with
  | .ok i => .instr i (s.setUopPort none)
  | .error e => .outcome (.refused (.undecodable e))

/-- What the machine does next: a running command's micro-operation, which no other writer of the pins may come between
(R175), or, with no command running, an offered word (log 15), or else the host's action. -/
def State.fetch (s : State) : Fetched :=
  match s.seq, s.uopPort with
  | .run c k answers, none => .outcome (s.busyStep c k answers)
  | .run _ _ _, some _ => .outcome (.refused .secondWriter)
  | .ready, some w => s.uopFetch w
  | .ready, none => s.readyFetch

/-- The state with the word `c` where the next step takes it, the block ready for it: a `UOP` word offered to the Pin Driver,
a `CMD` word as the host's next action. -/
def State.present (s : State) : Code → State
  | .uop w => (s.setUopPort (some w)).setSeq .ready
  | .cmd w => ((s.setUopPort none).setSeq .ready).setHost (.command w :: s.host)

end Sys2Proof.Machine
end

