-- ==== Sys2Proof/Machine/Step.lean ====
section
/-! DEFINITION. One step of the machine, and the placing of a word where the next step takes it. -/

namespace Sys2Proof.Machine

open Sys2Proof

/-- One step (R33, R57, R61). -/
def step (s : State) : Host.Outcome State Fault Refusal :=
  match s.fetch with
  | .instr i t => exec i t
  | .outcome o => o

/-- The state whose very next step runs the table word `w` of `nbits` bits (log 3). A number that is no word of its port
is put there as the zero command word, which is reserved (R81). -/
def State.withFetchWord (s : State) (nbits w : Nat) : State :=
  match codeOfTable nbits w with
  | some c => s.present c
  | none => s.present (.cmd 0#32)

end Sys2Proof.Machine
end

