-- ==== Sys2Proof/Machine/Expected.lean ====
section
/-! DEFINITION. The traces of the spec's rules written out as lists, the answers beside the samples (R88, R104 to R107,
R120, R121, R130, R140, R154, R155), and the registers' values in terms of the environment's answers. Claims compare
the micro-programs with these; no meaning uses them. -/

namespace Sys2Proof.Machine

open Sys2Proof

/-- Micro-operations without a sample among them. -/
def plain (us : List Uop) : List Event := us.map fun u => ⟨u, none⟩

/-- `Dr=b`. -/
def sampled (b : Level) : Event := ⟨.dRead, some b⟩

/-- The answer of a sample on the released wire: `LOW` if a peer pulls it low, `HIGH` if none does (R38, R40). -/
def answerLevel (peerLow : Bool) : Level := if peerLow then .low else .high

/-- `P` = `wL C1 wH C0` (R106). -/
def pulseEvents : List Event := plain [.wLow, .c1, .wHigh, .c0]

/-- `wL C1 wH Dr=b C0` (R107). -/
def samplePulseEvents (b : Level) : List Event := plain [.wLow, .c1, .wHigh] ++ [sampled b] ++ plain [.c0]

/-- `D0 wS C0` (R120). -/
def startEvents : List Event := plain [.d0, .wStart, .c0]

/-- `wL C1 wH wP D1` (R121). -/
def stopEvents : List Event := plain [.wLow, .c1, .wHigh, .wStop, .d1]

/-- One data bit: `D1 P` or `D0 P` (R130). -/
def bitEvents (b : Bool) : List Event := plain [if b then .d1 else .d0] ++ pulseEvents

/-- `WriteByte(v)` with the acknowledge sample `ack`: bits 7 down to 0, the ninth pulse, `D0 Do`, and the stop after a
`HIGH` (R130). -/
def writeByteEvents (v : Byte) (ack : Level) : List Event :=
  bitEvents (v.getLsbD 7) ++ bitEvents (v.getLsbD 6) ++ bitEvents (v.getLsbD 5) ++ bitEvents (v.getLsbD 4) ++
    bitEvents (v.getLsbD 3) ++ bitEvents (v.getLsbD 2) ++ bitEvents (v.getLsbD 1) ++ bitEvents (v.getLsbD 0) ++
    plain [.dIn, .wSettle] ++ samplePulseEvents ack ++ plain [.d0, .dOut] ++
    match ack with
    | .low => []
    | .high => stopEvents

/-- `ReadByte()` with the eight samples `bs` (R140). -/
def readByteEvents (bs : List Level) : List Event :=
  plain [.dIn, .wSettle] ++ bs.flatMap samplePulseEvents ++ plain [.d0, .dOut] ++ pulseEvents

/-- The byte of eight sampled bits, `{b7, b6, b5, b4, b3, b2, b1, b0}`, first sample in bit 7 (R79). -/
def byteOfSamples (b7 b6 b5 b4 b3 b2 b1 b0 : Bool) : Byte :=
  BitVec.ofBool b7 ++ BitVec.ofBool b6 ++ BitVec.ofBool b5 ++ BitVec.ofBool b4 ++ BitVec.ofBool b3 ++
    BitVec.ofBool b2 ++ BitVec.ofBool b1 ++ BitVec.ofBool b0

/-- The byte the next eight samples make when `j` samples come before them: a bit is 1 where no peer pulls the wire low
(R11, R40, R79). -/
def State.byteAt (s : State) (j : Nat) : Byte :=
  byteOfSamples (!s.peerLowAt j) (!s.peerLowAt (j + 1)) (!s.peerLowAt (j + 2)) (!s.peerLowAt (j + 3))
    (!s.peerLowAt (j + 4)) (!s.peerLowAt (j + 5)) (!s.peerLowAt (j + 6)) (!s.peerLowAt (j + 7))

/-- The answers of `n` samples when `j` samples come before them. -/
def State.answersAt (s : State) (j n : Nat) : List Level :=
  (List.range n).map fun i => answerLevel (s.peerLowAt (j + i))

/-- `n` bytes read after `j` samples (R155). -/
def State.bytesAt (s : State) (j n : Nat) : List Byte := (List.range n).map fun i => s.byteAt (j + 8 * i)

/-- The trace of `n` bytes read after `j` samples (R155). -/
def State.readEvents (s : State) (j n : Nat) : List Event :=
  (List.range n).flatMap fun i => readByteEvents (s.answersAt (j + 8 * i) 8)

/-- Bytes written and all acknowledged (R154). -/
def ackedEvents (vs : List Byte) : List Event := vs.flatMap fun v => writeByteEvents v .low

end Sys2Proof.Machine
end

