-- ==== Sys2Proof/Safety.lean ====
section
/-! DEFINITION. What is true of the machine between any two steps, in the terms claims use. -/

namespace Sys2Proof.Machine

open Sys2Proof

/-- A command can begin: none is running (R34), the premises on the environment hold (R200, R207), and the bus is in the
state `b` (R201). -/
def State.readyIn (s : State) (b : BusState) : Prop :=
  s.seq = .ready ∧ s.wellBehaved = true ∧ s.restAtLaunch = true ∧ s.busState = b

/-- `n` steps of the machine, ended by the first that answers no next state. -/
def stepTimes : Nat → State → Host.Outcome State Fault Refusal
  | 0, s => .next s
  | n + 1, s =>
    match step s with
    | .next t => stepTimes n t
    | .fault f => .fault f
    | .refused r => .refused r

/-- Instructions one after another, each as its own step; the first that does not answer a next state ends them. -/
def execAll : List Instr → State → Host.Outcome State Fault Refusal
  | [], s => .next s
  | i :: is, s =>
    match exec i s with
    | .next t => execAll is t
    | .fault f => .fault f
    | .refused r => .refused r

/-- The two pins at rest in a bus state: `Idle` both `(OUTPUT, HIGH)`, `Busy` both `(OUTPUT, LOW)` (R41). A command never
starts in `Transitioning` (R201); the value given for it is not used. -/
def restPin : BusState → Pin
  | .idle => ⟨.output, .high⟩
  | .busy => ⟨.output, .low⟩
  | .transitioning => ⟨.output, .high⟩

/-- `k` micro-operations of a program have been issued with the samples `answers`, no fewer and no more, and the program
has not ended: what `RUN(c, k)` says of the running command (R33). -/
def Prog.inProgress {α : Type} (p : Prog α) (k : Nat) (answers : List Level) : Bool :=
  match k, p, answers with
  | 0, .issue _ _, [] => true
  | 0, .sample _, [] => true
  | k + 1, .issue _ rest, bs => rest.inProgress k bs
  | k + 1, .sample rest, b :: bs => (rest b).inProgress k bs
  | 0, .ret _, _ => false
  | 0, .issue _ _, _ :: _ => false
  | 0, .sample _, _ :: _ => false
  | _ + 1, .ret _, _ => false
  | _ + 1, .sample _, [] => false

/-- The first `k` micro-operations of a program under the samples `answers`. -/
def Prog.issued {α : Type} (p : Prog α) (k : Nat) (answers : List Level) : List Uop :=
  match k, p, answers with
  | k + 1, .issue u rest, bs => u :: rest.issued k bs
  | k + 1, .sample rest, b :: bs => .dRead :: (rest b).issued k bs
  | 0, _, _ => []
  | _ + 1, .ret _, _ => []
  | _ + 1, .sample _, [] => []

/-- The invariant of the machine: what every step keeps. It leaves out the states no run reaches, such as a word nobody
issued on the Pin Driver port (R202) or a clock pin in input mode (R39). -/
structure State.Inv (s : State) : Prop where
  /-- the configuration is legal (R7, R9, R38). -/
  cfg_legal : s.cfg.wf
  /-- `BUF` has `BUF_DEPTH` entries (R29). -/
  buf_depth : s.buf.length = s.cfg.bufDepth
  /-- nobody but the sequencer writes the pins (R202). -/
  port_empty : s.uopPort = none
  /-- "The clock pin is always in `OUTPUT` mode after reset" (R39). -/
  clock_output : s.scl.mode = .output
  /-- "`Transitioning` occurs only strictly inside a command" (R41, R150). -/
  at_rest : s.seq = .ready → s.busState = .idle ∨ s.busState = .busy
  /-- a running command is a legal one, it has not ended, and the pins are what its micro-operations so far have made of
  the bus state it began in (R33, R61). -/
  in_command : ∀ c k answers, s.seq = .run c k answers →
    ∃ b, neededBusState c = some b ∧ (bodyOf c s).inProgress k answers = true ∧
      (s.scl, s.sda) = pinsAfter (restPin b) (restPin b) ((bodyOf c s).issued k answers)

end Sys2Proof.Machine
end

