-- ==== Sys2Proof/Certificates/Slice0/Obligations.lean ====
section
/-! DEFINITION. The statements for the provers, from the spec's rules. A statement of a command's result is its next state
written out over the state before, so that every field not named is unchanged. Where a statement ties an acknowledge or a
byte to what the peers do, its premise `readsInput` is R38's: in input mode `resolve_sda`, an open parameter (R9), gives
`LOW` if a peer pulls the wire low and `HIGH` if none does. -/

open Sys2Proof Sys2Proof.Machine

/-! ### Encoding -/

/-- Decode and encode agree (R71 to R76, R90): no operand bit is dropped. -/
def Obligations.DecodeOfEncodeIsTheInstruction : Prop :=
  ∀ (depth : Nat) (i : Instr), i.wellFormed depth = true → decode depth (encode i) = .ok i

/-- A word has at most one meaning, and only the words of well-formed instructions have one (R74, R76, R81 to R83, R90). -/
def Obligations.DecodedWordIsItsEncoding : Prop :=
  ∀ (depth : Nat) (c : Code) (i : Instr),
    decode depth c = .ok i → encode i = c ∧ i.wellFormed depth = true

/-- R74: the rows as `match` and `mask` over the 32-bit word, with the operand fields of R71; for `WRT` and `RDN` the
ranges of R90; a word that matches no row has no meaning. A word that matched two rows would have two, so the rows are
disjoint. -/
def Obligations.CommandRowsByMatchAndMask : Prop :=
  ∀ (depth : Nat) (w : BitVec 32),
    (w &&& 0xFFFFFFFF#32 = 0x10000000#32 → decodeCmd depth w = .ok .start) ∧
    (w &&& 0xFFFFFFFF#32 = 0x20000000#32 → decodeCmd depth w = .ok .stop) ∧
    (w &&& 0xFFFFFF00#32 = 0x30000000#32 → decodeCmd depth w = .ok (.wrb (w.extractLsb' 0 8))) ∧
    (w &&& 0xFFFFFFFF#32 = 0x40000000#32 → decodeCmd depth w = .ok .rdb) ∧
    (w &&& 0xFF8000FF#32 = 0x50000000#32 →
      decodeCmd depth w =
        if (w.extractLsb' 8 8).toNat ≤ depth then .ok (.wrt (w.extractLsb' 16 7) (w.extractLsb' 8 8))
        else .error .lenAboveDepth) ∧
    (w &&& 0xFF80FFFF#32 = 0x60000000#32 → decodeCmd depth w = .ok (.rd1 (w.extractLsb' 16 7))) ∧
    (w &&& 0xFF80FFFF#32 = 0x70000000#32 → decodeCmd depth w = .ok (.rd2 (w.extractLsb' 16 7))) ∧
    (w &&& 0xFF8000FF#32 = 0x80000000#32 →
      decodeCmd depth w =
        if w.extractLsb' 8 8 = 0#8 then .error .lenZero
        else if (w.extractLsb' 8 8).toNat ≤ depth then .ok (.rdn (w.extractLsb' 16 7) (w.extractLsb' 8 8))
        else .error .lenAboveDepth) ∧
    (w &&& 0xFFFFFFFF#32 ≠ 0x10000000#32 → w &&& 0xFFFFFFFF#32 ≠ 0x20000000#32 →
      w &&& 0xFFFFFF00#32 ≠ 0x30000000#32 → w &&& 0xFFFFFFFF#32 ≠ 0x40000000#32 →
      w &&& 0xFF8000FF#32 ≠ 0x50000000#32 → w &&& 0xFF80FFFF#32 ≠ 0x60000000#32 →
      w &&& 0xFF80FFFF#32 ≠ 0x70000000#32 → w &&& 0xFF8000FF#32 ≠ 0x80000000#32 →
      ∃ e, decodeCmd depth w = .error e)

/-- R81, R82: a presented word whose `OP` is 0x0 or 0x9 to 0xF, whose `CMD[27:23]` is not zero, or a field of which its
command does not use and that is not zero, is refused, with no next state; the all-zero word among them. -/
def Obligations.ReservedCommandWordsAreRefused : Prop :=
  ∀ (s : State) (w : BitVec 32) (hs : List HostAction),
    s.uopPort = none → s.seq = .ready →
    (s.host = .command w :: hs ∨ s.host = .launch w :: hs) →
    ((w.extractLsb' 28 4 = 0x0#4 ∨ 0x9 ≤ (w.extractLsb' 28 4).toNat) ∨
      w.extractLsb' 23 5 ≠ 0#5 ∨
      (w.extractLsb' 28 4 = 0x1#4 ∧ w.extractLsb' 0 28 ≠ 0#28) ∨
      (w.extractLsb' 28 4 = 0x2#4 ∧ w.extractLsb' 0 28 ≠ 0#28) ∨
      (w.extractLsb' 28 4 = 0x4#4 ∧ w.extractLsb' 0 28 ≠ 0#28) ∨
      (w.extractLsb' 28 4 = 0x3#4 ∧ w.extractLsb' 8 20 ≠ 0#20) ∨
      (w.extractLsb' 28 4 = 0x6#4 ∧ w.extractLsb' 0 16 ≠ 0#16) ∨
      (w.extractLsb' 28 4 = 0x7#4 ∧ w.extractLsb' 0 16 ≠ 0#16) ∨
      (w.extractLsb' 28 4 = 0x5#4 ∧ w.extractLsb' 0 8 ≠ 0#8) ∨
      (w.extractLsb' 28 4 = 0x8#4 ∧ w.extractLsb' 0 8 ≠ 0#8)) →
    ∃ e, step s = .refused (.undecodable e)

/-- Words of 95_test_vectors.md section 8 and of R76, decoded. -/
def Obligations.WordsOfTheSpecDecode : Prop :=
  decodeTableWord 32 0x10000000 = some .start ∧ decodeTableWord 32 0x20000000 = some .stop ∧
  decodeTableWord 32 0x300000A0 = some (.wrb 0xA0) ∧ decodeTableWord 32 0x40000000 = some .rdb ∧
  decodeTableWord 32 0x50500200 = some (.wrt 0x50 2) ∧ decodeTableWord 32 0x60680000 = some (.rd1 0x68) ∧
  decodeTableWord 32 0x70480000 = some (.rd2 0x48) ∧ decodeTableWord 32 0x80680600 = some (.rdn 0x68 6) ∧
  decodeTableWord 8 0x00 = some .c0 ∧ decodeTableWord 8 0x0C = some .dRead ∧
  decodeTableWord 8 0x13 = some .wHigh ∧
  decodeTableWord 32 0x00000000 = none ∧ decodeTableWord 32 0x50D00200 = none ∧
  decodeTableWord 32 0x80680000 = none ∧ decodeTableWord 8 0x03 = none ∧ decodeTableWord 8 0x1F = none

/-! ### Operand assembly -/

/-- R77: the address byte is `(zext_8(ADDR) << 1) | dir`, the direction bit is bit 0, `ADDR[6]` lands in bit 7. -/
def Obligations.AddressByteIsShiftedAddressWithDirection : Prop :=
  ∀ (a : BitVec 7),
    addressByte a .write = a.setWidth 8 <<< 1 ∧
    addressByte a .read = (a.setWidth 8 <<< 1) ||| 1#8 ∧
    (addressByte a .write).getLsbD 0 = false ∧ (addressByte a .read).getLsbD 0 = true ∧
    (∀ j, j < 7 → (addressByte a .write).getLsbD (j + 1) = a.getLsbD j ∧
      (addressByte a .read).getLsbD (j + 1) = a.getLsbD j)

/-- R79: from `r = 0`, eight times `r <- (r << 1) | b` makes the byte of the eight samples, the first in bit 7; and every
one of the 256 values can result. -/
def Obligations.EightShiftsAssembleTheReceivedByte : Prop :=
  (∀ b7 b6 b5 b4 b3 b2 b1 b0 : Bool,
    ([b7, b6, b5, b4, b3, b2, b1, b0].map levelOfBit).foldl shiftIn 0#8 =
      byteOfSamples b7 b6 b5 b4 b3 b2 b1 b0) ∧
  ∀ v : BitVec 8, ∃ bs : List Level, bs.length = 8 ∧ bs.foldl shiftIn 0#8 = v

/-! ### The error and reset -/

/-- R177: `raise Nack` writes `ACKF <- 0` and `SEQ <- READY`, issues nothing and changes nothing else, from any state. -/
def Obligations.RaiseNackClearsTheFlagAndEndsTheCommand : Prop :=
  ∀ s : State, s.raiseNack = { s with ackf := false, seq := .ready }

/-- R191, R193: from every pin state `Reset()` issues `C1 Co D1 Do` and leaves both pins `(OUTPUT, HIGH)`, `Idle`; nothing
else changes. -/
def Obligations.ResetSequenceReachesIdleFromAnyPins : Prop :=
  ∀ s : State,
    (resetSeq.run s).2 =
      { s with
        scl := ⟨.output, .high⟩, sda := ⟨.output, .high⟩,
        log := (plain [.c1, .cOut, .d1, .dOut]).reverse ++ s.log } ∧
    (resetSeq.run s).2.busState = .idle

/-- R192, R193, R194: what the spec states of the state after reset, for an instance of any configuration. The
clauses on State.reset are the instance that was given none: the defaults of R9, R21 and R40; that State.reset is that
instance is the model's choice (log 23). -/
def Obligations.StateAfterReset : Prop :=
  (∀ c : Config,
    (State.resetWith c).cfg = c ∧ (State.resetWith c).seq = .ready ∧ (State.resetWith c).busy = false ∧
    (State.resetWith c).ackf = false ∧
    (State.resetWith c).scl = ⟨.output, .high⟩ ∧ (State.resetWith c).sda = ⟨.output, .high⟩ ∧
    (State.resetWith c).busState = .idle ∧ uopsOf (State.resetWith c).trace = [.c1, .cOut, .d1, .dOut]) ∧
  State.reset = State.resetWith State.reset.cfg ∧
  State.reset.cfg.tStartHold = 0 ∧ State.reset.cfg.tStopHold = 0 ∧ State.reset.cfg.tClkLowHold = 0 ∧
  State.reset.cfg.tClkHighHold = 0 ∧ State.reset.cfg.tInputSettle = 0 ∧ State.reset.cfg.bufDepth = 255 ∧
  (∀ (l : Level) (b : Bool),
    wireEntry State.reset.cfg.resolveSda ⟨.inputPullup, l⟩ b = some (if b then .low else .high) ∧
    wireEntry State.reset.cfg.resolveSda ⟨.output, .low⟩ b = some .low) ∧
  wireEntry State.reset.cfg.resolveSda ⟨.output, .high⟩ false = some .high ∧
  wireEntry State.reset.cfg.resolveSda ⟨.output, .high⟩ true = none

/-! ### The step -/

/-- A step runs the decoded command: the word the host presents to a ready block is decoded and its instruction run, the
host's action taken off its script (the script is the model's: log 2). -/
def Obligations.StepRunsThePresentedCommand : Prop :=
  ∀ (s : State) (w : BitVec 32) (hs : List HostAction) (i : Instr),
    s.uopPort = none → s.seq = .ready → s.host = .command w :: hs →
    decode s.cfg.bufDepth (.cmd w) = .ok i →
    step s = exec i { s with host := hs }

/-- A step runs the micro-operation word offered to the Pin Driver while no command runs, and takes it off (its place in State
is the model's: log 15). While a command runs it is refused, for nothing else may write the pins there (R175). -/
def Obligations.StepRunsTheMicroOperationWord : Prop :=
  ∀ (s : State) (w : BitVec 5), s.uopPort = some w →
    (∀ i, s.seq = .ready → decode s.cfg.bufDepth (.uop w) = .ok i → step s = exec i { s with uopPort := none }) ∧
    (∀ e, s.seq = .ready → decode s.cfg.bufDepth (.uop w) = .error e → step s = .refused (.undecodable e)) ∧
    (s.seq ≠ .ready → step s = .refused .secondWriter)

/-- R72: acceptance as a step of its own. A legal word presented while `SEQ = READY` loads `ADDR`, `LEN` and `DATA` from its
fields and starts the command; while `SEQ` is not `READY` the step is the one it is with nothing presented. -/
def Obligations.AcceptanceLoadsTheOperandRegisters : Prop :=
  (∀ (s : State) (w : BitVec 32) (hs : List HostAction) (i : Instr) (b : BusState),
    s.uopPort = none → s.readyIn b → s.host = .launch w :: hs →
    decode s.cfg.bufDepth (.cmd w) = .ok i → neededBusState i = some b →
    step s =
      .next
        { s with
          addr := w.extractLsb' 16 7, len := w.extractLsb' 8 8, data := w.extractLsb' 0 8,
          seq := .run i 0 [], host := hs }) ∧
  (∀ (s : State) (w : BitVec 32) (hs : List HostAction), s.uopPort = none → s.seq ≠ .ready →
    step { s with host := .command w :: hs } = step { s with host := .quiet :: hs } ∧
    step { s with host := .launch w :: hs } = step { s with host := .quiet :: hs })

/-- R34, R72: a command given to `exec` while another runs has no effect. -/
def Obligations.RunningBlockAcceptsNoCommand : Prop :=
  ∀ (i : Instr) (s : State), i.isCommand = true → s.seq ≠ .ready → exec i s = .next s

/-- R29, R70: the host writes an entry of `BUF` while `BUSY = 0`; one that does not exist faults, and while a command runs
the write is refused (the two stops are the model's choice: log 16). -/
def Obligations.HostWritesTheBufferWhileReady : Prop :=
  ∀ (s : State) (j : Nat) (v : BitVec 8) (hs : List HostAction),
    s.uopPort = none → s.host = .writeBuf j v :: hs →
    (s.seq = .ready → j < s.cfg.bufDepth → step s = .next { s with buf := s.buf.set j v, host := hs }) ∧
    (s.seq = .ready → s.cfg.bufDepth ≤ j → step s = .fault .noBufEntry) ∧
    (s.seq ≠ .ready → s.wellBehaved = true → s.restAtLaunch = true → step s = .refused .bufWhileBusy)

/-- With nothing presented a ready block stays as it is (the model's choice: log 2). -/
def Obligations.ReadyBlockWaitsForTheHost : Prop :=
  ∀ s : State, s.uopPort = none → s.seq = .ready →
    (s.host = [] → step s = .next s) ∧
    (∀ hs, s.host = .quiet :: hs → step s = .next { s with host := hs })

/-! ### Micro-operations -/

/-- R37, R76: `C0`, `C1`, `Co` act on the clock pin, one cell each, whatever it held, and change nothing else. -/
def Obligations.ClockPinMicroOperations : Prop :=
  ∀ s : State,
    exec .c0 s = .next { s with scl := { s.scl with latch := .low }, log := ⟨.c0, none⟩ :: s.log } ∧
    exec .c1 s = .next { s with scl := { s.scl with latch := .high }, log := ⟨.c1, none⟩ :: s.log } ∧
    exec .cOut s = .next { s with scl := { s.scl with mode := .output }, log := ⟨.cOut, none⟩ :: s.log }

/-- R37, R76: `D0`, `D1`, `Do`, `Di` act on the data pin, one cell each, whatever it held, and change nothing else. -/
def Obligations.DataPinMicroOperations : Prop :=
  ∀ s : State,
    exec .d0 s = .next { s with sda := { s.sda with latch := .low }, log := ⟨.d0, none⟩ :: s.log } ∧
    exec .d1 s = .next { s with sda := { s.sda with latch := .high }, log := ⟨.d1, none⟩ :: s.log } ∧
    exec .dOut s = .next { s with sda := { s.sda with mode := .output }, log := ⟨.dOut, none⟩ :: s.log } ∧
    exec .dIn s = .next { s with sda := { s.sda with mode := .inputPullup }, log := ⟨.dIn, none⟩ :: s.log }

/-- R38, R40: `Dr` answers the level of the data wire and changes no pin: the level `resolve_sda` gives for the pin's mode and
latch and the peers' pull, whatever that parameter is (R9); in input mode, with one that reads the input as R38 says, `LOW`
where a peer pulls the wire low and `HIGH` where none does. The clauses on a pin that drives are those of the default
`resolve_sda`, an open parameter, and that a `Dr` there reads the wire by it is the model's choice (log 14): driven low,
`LOW`; driven high and not pulled, `HIGH`; in contention any level. -/
def Obligations.SampleAnswersTheDataWire : Prop :=
  ∀ s : State, ∃ b : Level,
    exec .dRead s =
      .next
        { s with
          uopAns := b, peers := s.peers.drop 1, fresh := s.fresh + 1, log := ⟨.dRead, some b⟩ :: s.log } ∧
    (∀ l, wireEntry s.cfg.resolveSda s.sda (s.peerLowAt 0) = some l → b = l) ∧
    (s.cfg.resolveSda.readsInput → s.sda.mode = .inputPullup → s.peerLowAt 0 = true → b = .low) ∧
    (s.cfg.resolveSda.readsInput → s.sda.mode = .inputPullup → s.peerLowAt 0 = false → b = .high) ∧
    (s.cfg.resolveSda = SdaResolve.default →
      (s.sda.mode = .output → s.sda.latch = .low → b = .low) ∧
      (s.sda.mode = .output → s.sda.latch = .high → s.peerLowAt 0 = false → b = .high))

/-- R70, R76: the word of each micro-operation is its code in the table, the one the encoder gives it; performing the
micro-operation puts that word on the Pin Driver port after the earlier ones. -/
def Obligations.UopWordsAreTheCodesOfTheTable : Prop :=
  [Uop.c0, .c1, .cOut, .d0, .d1, .dOut, .dIn, .dRead, .wStart, .wStop, .wLow, .wHigh, .wSettle].map uopWord =
    [0x00#5, 0x01#5, 0x02#5, 0x08#5, 0x09#5, 0x0A#5, 0x0B#5, 0x0C#5, 0x10#5, 0x11#5, 0x12#5, 0x13#5, 0x14#5] ∧
  ∀ u : Uop, ∃ i : Instr, uopOf i = some u ∧ encode i = .uop (uopWord u) ∧
    ∀ s : State, exec i s = .next (s.perform u) ∧ (s.perform u).uopOutput = s.uopOutput ++ [uopWord u]

/-- R33, R70, R83: a step only adds words to the output of the Pin Driver port, and only words that stand for a
micro-operation, never a code that R83 calls never issued; a step inside a command, in the grain
of one micro-operation a step (log 1), adds exactly one. -/
def Obligations.StepsPutOutOnlyMicroOperationWords : Prop :=
  ∀ s t : State, step s = .next t →
    ∃ ws : List (BitVec 5), t.uopOutput = s.uopOutput ++ ws ∧ (∀ w ∈ ws, ∃ i, decodeUop w = .ok i) ∧
      (s.Inv → s.seq ≠ .ready → ws.length = 1)

/-- R101: a wait changes no register and no pin; it is in the trace whatever its constant (R102). -/
def Obligations.WaitsOnlyJoinTheTrace : Prop :=
  ∀ s : State,
    exec .wStart s = .next { s with log := ⟨.wStart, none⟩ :: s.log } ∧
    exec .wStop s = .next { s with log := ⟨.wStop, none⟩ :: s.log } ∧
    exec .wLow s = .next { s with log := ⟨.wLow, none⟩ :: s.log } ∧
    exec .wHigh s = .next { s with log := ⟨.wHigh, none⟩ :: s.log } ∧
    exec .wSettle s = .next { s with log := ⟨.wSettle, none⟩ :: s.log }

/-! ### The clock primitives -/

/-- R104 to R107: the four clock primitives on any pins: the clock latch, the trace, one sample in `PulseClockSample`, and
nothing else. -/
def Obligations.ClockPrimitives : Prop :=
  ∀ s : State,
    raiseClock.run s =
      ((), { s with scl := { s.scl with latch := .high }, log := (plain [.wLow, .c1, .wHigh]).reverse ++ s.log }) ∧
    lowerClock.run s =
      ((), { s with scl := { s.scl with latch := .low }, log := (plain [.c0]).reverse ++ s.log }) ∧
    pulseClock.run s =
      ((), { s with scl := { s.scl with latch := .low }, log := (plain [.wLow, .c1, .wHigh, .c0]).reverse ++ s.log }) ∧
    (s.cfg.resolveSda.readsInput → s.sda.mode = .inputPullup →
      pulseClockSample.run s =
        (answerLevel (s.peerLowAt 0),
          { s with
            scl := { s.scl with latch := .low }, uopAns := answerLevel (s.peerLowAt 0), peers := s.peers.drop 1,
            fresh := s.fresh + 1,
            log :=
              (plain [.wLow, .c1, .wHigh] ++ [sampled (answerLevel (s.peerLowAt 0))] ++ plain [.c0]).reverse ++
                s.log }))

/-! ### The byte-level commands -/

/-- R120, R122: `START` from `Idle`: the trace `D0 wS C0`, the bus `Busy`, no register written but the operand registers,
which its word's zero fields load (R72). -/
def Obligations.StartTakesTheBus : Prop :=
  ∀ s : State, s.readyIn .idle →
    exec .start s =
      .next
        { s with
          addr := 0, len := 0, data := 0, scl := ⟨.output, .low⟩, sda := ⟨.output, .low⟩,
          log := startEvents.reverse ++ s.log }

/-- R121, R123: `STOP` from `Busy`: the trace `wL C1 wH wP D1`, the bus `Idle`, no register written but the operand
registers (R72). -/
def Obligations.StopReleasesTheBus : Prop :=
  ∀ s : State, s.readyIn .busy →
    exec .stop s =
      .next
        { s with
          addr := 0, len := 0, data := 0, scl := ⟨.output, .high⟩, sda := ⟨.output, .high⟩,
          log := stopEvents.reverse ++ s.log }

/-- R130, R131, R133: `WRB d` from `Busy`. With the sample `LOW`: `ACKF = 1` and the bus stays `Busy`. With the sample
`HIGH`: `ACKF = 0`, the stop inside the byte write, and the bus `Idle`. -/
def Obligations.WriteByteSendsAndSamplesAcknowledge : Prop :=
  ∀ (d : BitVec 8) (s : State), s.readyIn .busy → s.cfg.resolveSda.readsInput →
    (s.peerLowAt 0 = true →
      exec (.wrb d) s =
        .next
          { s with
            addr := 0, len := 0, data := d, ackf := true, scl := ⟨.output, .low⟩, sda := ⟨.output, .low⟩,
            uopAns := .low, peers := s.peers.drop 1, fresh := s.fresh + 1,
            log := (writeByteEvents d .low).reverse ++ s.log }) ∧
    (s.peerLowAt 0 = false →
      exec (.wrb d) s =
        .next
          { s with
            addr := 0, len := 0, data := d, ackf := false, scl := ⟨.output, .high⟩, sda := ⟨.output, .high⟩,
            uopAns := .high, peers := s.peers.drop 1, fresh := s.fresh + 1,
            log := (writeByteEvents d .high).reverse ++ s.log })

/-- R140, R141, R144: `RDB` from `Busy`: `RDATA` is the byte of the next eight samples, `ACKF` is unchanged, the acknowledge
is driven whatever was read, and the bus stays `Busy`. -/
def Obligations.ReadByteAssemblesEightSamples : Prop :=
  ∀ s : State, s.readyIn .busy → s.cfg.resolveSda.readsInput →
    exec .rdb s =
      .next
        { s with
          addr := 0, len := 0, data := 0, rdata := s.byteAt 0, scl := ⟨.output, .low⟩, sda := ⟨.output, .low⟩,
          uopAns := answerLevel (s.peerLowAt 7), peers := s.peers.drop 8, fresh := s.fresh + 8,
          log := (readByteEvents (s.answersAt 0 8)).reverse ++ s.log }

/-! ### The transactions -/

/-- R154: `WRT a, n` with every byte acknowledged: the address byte with direction bit 0, `BUF[0..n-1]` in order, the
transaction's own stop, `ACKF = 1`, the bus `Idle`, `BUF` unchanged. -/
def Obligations.WriteTransactionAllAcknowledged : Prop :=
  ∀ (a : BitVec 7) (n : BitVec 8) (s : State), s.readyIn .idle → s.cfg.resolveSda.readsInput → n.toNat ≤ s.cfg.bufDepth →
    s.buf.length = s.cfg.bufDepth → (∀ j, j ≤ n.toNat → s.peerLowAt j = true) →
    exec (.wrt a n) s =
      .next
        { s with
          addr := a, len := n, data := 0, ackf := true, scl := ⟨.output, .high⟩, sda := ⟨.output, .high⟩,
          uopAns := .low, peers := s.peers.drop (n.toNat + 1), fresh := s.fresh + (n.toNat + 1),
          log :=
            (startEvents ++ ackedEvents ((a.setWidth 8 <<< 1) :: s.buf.take n.toNat) ++ stopEvents).reverse ++
              s.log }

/-- R154, R160, R162, R177: `WRT a, n` whose first refusal is at byte `k`, 0 the address byte: bytes 0 to `k` are sent and
no later one, the trace ends with the stop inside the failing byte write, `ACKF = 0`, the bus `Idle`. -/
def Obligations.WriteTransactionEndsAtTheFirstRefusal : Prop :=
  ∀ (a : BitVec 7) (n : BitVec 8) (s : State) (k : Nat), s.readyIn .idle → s.cfg.resolveSda.readsInput →
    n.toNat ≤ s.cfg.bufDepth → s.buf.length = s.cfg.bufDepth → k ≤ n.toNat → (∀ j, j < k → s.peerLowAt j = true) →
    s.peerLowAt k = false →
    exec (.wrt a n) s =
      .next
        { s with
          addr := a, len := n, data := 0, ackf := false, scl := ⟨.output, .high⟩, sda := ⟨.output, .high⟩,
          uopAns := .high, peers := s.peers.drop (k + 1), fresh := s.fresh + (k + 1),
          log :=
            (startEvents ++ ackedEvents (((a.setWidth 8 <<< 1) :: s.buf.take n.toNat).take k) ++
              writeByteEvents (((a.setWidth 8 <<< 1) :: s.buf.take n.toNat).getD k 0#8) .high).reverse ++ s.log }

/-- R155, R156: `RD1 a` with the address byte acknowledged: `RDATA` is the byte received, `ACKF = 1`, `Idle`. -/
def Obligations.ReadOneByteTransaction : Prop :=
  ∀ (a : BitVec 7) (s : State), s.readyIn .idle → s.cfg.resolveSda.readsInput → s.peerLowAt 0 = true →
    exec (.rd1 a) s =
      .next
        { s with
          addr := a, len := 0, data := 0, ackf := true, rdata := s.byteAt 1,
          scl := ⟨.output, .high⟩, sda := ⟨.output, .high⟩, uopAns := answerLevel (s.peerLowAt 8),
          peers := s.peers.drop 9, fresh := s.fresh + 9,
          log :=
            (startEvents ++ writeByteEvents ((a.setWidth 8 <<< 1) ||| 1#8) .low ++ s.readEvents 1 1 ++
              stopEvents).reverse ++ s.log }

/-- R80, R155, R157: `RD2 a` with the address byte acknowledged: `RWORD = (first << 8) | second`, `ACKF = 1`, `Idle`;
`RDATA` and `BUF` unchanged. -/
def Obligations.ReadWordTransaction : Prop :=
  ∀ (a : BitVec 7) (s : State), s.readyIn .idle → s.cfg.resolveSda.readsInput → s.peerLowAt 0 = true →
    exec (.rd2 a) s =
      .next
        { s with
          addr := a, len := 0, data := 0, ackf := true,
          rword := ((s.byteAt 1).setWidth 16 <<< 8) ||| (s.byteAt 9).setWidth 16,
          scl := ⟨.output, .high⟩, sda := ⟨.output, .high⟩, uopAns := answerLevel (s.peerLowAt 16),
          peers := s.peers.drop 17, fresh := s.fresh + 17,
          log :=
            (startEvents ++ writeByteEvents ((a.setWidth 8 <<< 1) ||| 1#8) .low ++ s.readEvents 1 2 ++
              stopEvents).reverse ++ s.log }

/-- R155, R158: `RDN a, n` with the address byte acknowledged: `BUF[i]` is the `i`-th byte received for `i < n`, the later
entries unchanged, `ACKF = 1`, `Idle`. -/
def Obligations.ReadBufferTransaction : Prop :=
  ∀ (a : BitVec 7) (n : BitVec 8) (s : State), s.readyIn .idle → s.cfg.resolveSda.readsInput → 1 ≤ n.toNat →
    n.toNat ≤ s.cfg.bufDepth → s.buf.length = s.cfg.bufDepth → s.peerLowAt 0 = true →
    exec (.rdn a n) s =
      .next
        { s with
          addr := a, len := n, data := 0, ackf := true, buf := s.bytesAt 1 n.toNat ++ s.buf.drop n.toNat,
          scl := ⟨.output, .high⟩, sda := ⟨.output, .high⟩,
          uopAns := answerLevel (s.peerLowAt (8 * n.toNat)),
          peers := s.peers.drop (1 + 8 * n.toNat), fresh := s.fresh + (1 + 8 * n.toNat),
          log :=
            (startEvents ++ writeByteEvents ((a.setWidth 8 <<< 1) ||| 1#8) .low ++ s.readEvents 1 n.toNat ++
              stopEvents).reverse ++ s.log }

/-- R155 to R158, R160, R177, U3: a read whose address byte is refused reads no byte; `ACKF = 0`, `Idle`; its own data
result is some value the statement does not fix, every other register is unchanged. -/
def Obligations.ReadRefusedAtTheAddressByte : Prop :=
  ∀ (a : BitVec 7) (n : BitVec 8) (s : State), s.readyIn .idle → s.cfg.resolveSda.readsInput → s.peerLowAt 0 = false →
    (∃ (v : BitVec 8) (f : Nat),
      exec (.rd1 a) s =
        .next
          { s with
            addr := a, len := 0, data := 0, ackf := false, rdata := v,
            scl := ⟨.output, .high⟩, sda := ⟨.output, .high⟩, uopAns := .high, peers := s.peers.drop 1, fresh := f,
            log := (startEvents ++ writeByteEvents ((a.setWidth 8 <<< 1) ||| 1#8) .high).reverse ++ s.log }) ∧
    (∃ (v : BitVec 16) (f : Nat),
      exec (.rd2 a) s =
        .next
          { s with
            addr := a, len := 0, data := 0, ackf := false, rword := v,
            scl := ⟨.output, .high⟩, sda := ⟨.output, .high⟩, uopAns := .high, peers := s.peers.drop 1, fresh := f,
            log := (startEvents ++ writeByteEvents ((a.setWidth 8 <<< 1) ||| 1#8) .high).reverse ++ s.log }) ∧
    (1 ≤ n.toNat → n.toNat ≤ s.cfg.bufDepth → s.buf.length = s.cfg.bufDepth →
      ∃ (vs : List (BitVec 8)) (f : Nat), vs.length = n.toNat ∧
        exec (.rdn a n) s =
          .next
            { s with
              addr := a, len := n, data := 0, ackf := false, buf := vs ++ s.buf.drop n.toNat,
              scl := ⟨.output, .high⟩, sda := ⟨.output, .high⟩, uopAns := .high, peers := s.peers.drop 1, fresh := f,
              log := (startEvents ++ writeByteEvents ((a.setWidth 8 <<< 1) ||| 1#8) .high).reverse ++ s.log })

/-! ### Contract -/

/-- R201, U2: a command presented outside the bus state it needs is refused: `START` and the transactions outside `Idle`,
`STOP`, `WRB` and `RDB` outside `Busy`. -/
def Obligations.CommandOutsideItsBusStateIsRefused : Prop :=
  ∀ s : State, s.seq = .ready → s.wellBehaved = true → s.restAtLaunch = true →
    (s.busState ≠ .idle →
      exec .start s = .refused (.outOfContract .idle) ∧
      (∀ a n, n.toNat ≤ s.cfg.bufDepth → exec (.wrt a n) s = .refused (.outOfContract .idle)) ∧
      (∀ a, exec (.rd1 a) s = .refused (.outOfContract .idle)) ∧
      (∀ a, exec (.rd2 a) s = .refused (.outOfContract .idle)) ∧
      (∀ a n, 1 ≤ n.toNat → n.toNat ≤ s.cfg.bufDepth → exec (.rdn a n) s = .refused (.outOfContract .idle))) ∧
    (s.busState ≠ .busy →
      exec .stop s = .refused (.outOfContract .busy) ∧
      (∀ d, exec (.wrb d) s = .refused (.outOfContract .busy)) ∧
      exec .rdb s = .refused (.outOfContract .busy))

/-- R90: `LEN` out of its range is refused, whatever the bus state. -/
def Obligations.LengthOutOfRangeIsRefused : Prop :=
  ∀ (a : BitVec 7) (n : BitVec 8) (s : State), s.seq = .ready →
    (s.cfg.bufDepth < n.toNat →
      exec (.wrt a n) s = .refused .lengthOutOfRange ∧ exec (.rdn a n) s = .refused .lengthOutOfRange) ∧
    (n.toNat = 0 → exec (.rdn a n) s = .refused .lengthOutOfRange)

/-- R200, R207, U6: where a premise on the environment fails no command is given a next state. The spec says that the model
says nothing there, in the sense that its environment has no such peer; that each premise is a Boolean of State, that a
command is refused where it is false, and that this comes before the check of the bus state, is the model's choice (logs
11, 12, 24). -/
def Obligations.NoCommandWithoutTheEnvironmentPremise : Prop :=
  ∀ (i : Instr) (s : State), i.isCommand = true → i.wellFormed s.cfg.bufDepth = true → s.seq = .ready →
    (s.wellBehaved = false → exec i s = .refused .illBehavedEnvironment) ∧
    (s.wellBehaved = true → s.restAtLaunch = false → exec i s = .refused .busNotAtRestAtLaunch)

/-- R150, R201: the bus state after each command, from the bus state it needs; the transactions end in `Idle` on success
and on failure alike, so each of the eight commands completes on every answer of the environment. -/
def Obligations.BusStateAfterEachCommand : Prop :=
  (∀ s : State, s.readyIn .idle → ∃ t, exec .start s = .next t ∧ t.readyIn .busy) ∧
  (∀ s : State, s.readyIn .busy → ∃ t, exec .stop s = .next t ∧ t.readyIn .idle) ∧
  (∀ (s : State) (d : BitVec 8), s.readyIn .busy →
    ∃ t, exec (.wrb d) s = .next t ∧ t.readyIn (if t.ackf then .busy else .idle)) ∧
  (∀ s : State, s.readyIn .busy → ∃ t, exec .rdb s = .next t ∧ t.readyIn .busy) ∧
  (∀ (s : State) (a : BitVec 7) (n : BitVec 8), s.readyIn .idle → n.toNat ≤ s.cfg.bufDepth →
    ∃ t, exec (.wrt a n) s = .next t ∧ t.readyIn .idle) ∧
  (∀ (s : State) (a : BitVec 7), s.readyIn .idle → ∃ t, exec (.rd1 a) s = .next t ∧ t.readyIn .idle) ∧
  (∀ (s : State) (a : BitVec 7), s.readyIn .idle → ∃ t, exec (.rd2 a) s = .next t ∧ t.readyIn .idle) ∧
  (∀ (s : State) (a : BitVec 7) (n : BitVec 8), s.readyIn .idle → 1 ≤ n.toNat → n.toNat ≤ s.cfg.bufDepth →
    ∃ t, exec (.rdn a n) s = .next t ∧ t.readyIn .idle)

/-! ### Whole-machine rules -/

/-- The invariant holds after reset, of an instance of any legal configuration (R43, R193). -/
def Obligations.InvariantHoldsAtReset : Prop :=
  State.reset.Inv ∧ ∀ c : Config, c.wf → (State.resetWith c).Inv

/-- From every state that meets the invariant, a step gives one that meets it: the configuration stays legal, `BUF` keeps
its depth, nobody but the sequencer writes the pins (R202), the clock pin stays an output (R39), `Transitioning` occurs
only inside a command (R41, R150), and inside one the pins are what its micro-operations so far have made (R61). -/
def Obligations.EveryStepKeepsTheInvariant : Prop :=
  ∀ s t : State, s.Inv → step s = .next t → t.Inv

/-- R22: no step changes the configuration, from any state. -/
def Obligations.NoStepChangesTheConfiguration : Prop :=
  ∀ s t : State, step s = .next t → t.cfg = s.cfg

/-- R26, R35: only `WRB`, `WRT`, `RD1`, `RD2` and `RDN` write `ACKF`, from any state. -/
def Obligations.OnlyAcknowledgedCommandsWriteTheFlag : Prop :=
  ∀ (i : Instr) (s t : State), exec i s = .next t → t.ackf ≠ s.ackf →
    (∃ d, i = .wrb d) ∨ (∃ a n, i = .wrt a n) ∨ (∃ a, i = .rd1 a) ∨ (∃ a, i = .rd2 a) ∨ (∃ a n, i = .rdn a n)

/-- R124: between two commands the bus goes from `Idle` to `Busy` only by `START`, and from `Busy` to `Idle` only by `STOP`
or by the refusal of a `WRB`. -/
def Obligations.OnlyStartTakesAndOnlyStopReleasesTheBus : Prop :=
  ∀ (i : Instr) (s t : State), i.isCommand = true → exec i s = .next t →
    (s.busState = .idle → t.busState = .busy → i = .start) ∧
    (s.busState = .busy → t.busState = .idle → i = .stop ∨ ∃ d, i = .wrb d ∧ t.ackf = false)

/-- R35: no command reads `ACKF`: with the flag changed beforehand a command does the same, its trace, pins and data results
included. -/
def Obligations.NoCommandDependsOnTheFlag : Prop :=
  ∀ (i : Instr) (s t : State) (b : Bool), exec i s = .next t →
    ∃ t', exec i { s with ackf := b } = .next t' ∧ t = { t' with ackf := t.ackf }

/-- R102: no command reads the seven static inputs of R22, the pin identities and the durations: with other ones (the
parameters R9 adds kept) a command does the same, and its trace is the same item for item. -/
def Obligations.TraceDoesNotDependOnTheConfiguration : Prop :=
  ∀ (i : Instr) (s t : State) (c : Config), c.bufDepth = s.cfg.bufDepth → c.resolveSda = s.cfg.resolveSda →
    exec i s = .next t → exec i { s with cfg := c } = .next { t with cfg := c }

/-- R171: the block does not record which byte of a `WRT` was refused: two failing runs that differ in the environment's
answers alone end with the same registers and pins. -/
def Obligations.RefusedByteIsNotRecorded : Prop :=
  ∀ (a : BitVec 7) (n : BitVec 8) (s t u : State) (ps : List Bool),
    exec (.wrt a n) s = .next t → exec (.wrt a n) { s with peers := ps } = .next u → s.seq = .ready →
    t.ackf = false → u.ackf = false →
    t.cfg = u.cfg ∧ t.seq = u.seq ∧ t.addr = u.addr ∧ t.len = u.len ∧ t.data = u.data ∧ t.rdata = u.rdata ∧
      t.rword = u.rword ∧ t.buf = u.buf ∧ t.scl = u.scl ∧ t.sda = u.sda ∧ t.uopAns = u.uopAns

/-! ### Traces -/

/-- R109, R124, R162: the data pin changes while the clock is high only in a START or a STOP condition: a transaction makes
exactly one of each, whatever the answers; `START` and `STOP` make their own; `WRB` makes none when acknowledged and the
stop when refused; `RDB` makes none. -/
def Obligations.StartAndStopConditionsOfEachCommand : Prop :=
  ∀ (i : Instr) (s t : State) (b : BusState), neededBusState i = some b → s.readyIn b → exec i s = .next t →
    conditions s.scl s.sda (uopsOf (s.newEvents t)) =
      match i with
      | .start => [.start]
      | .stop => [.stop]
      | .wrb _ => if t.ackf then [] else [.stop]
      | .rdb => []
      | _ => [.start, .stop]

/-- R39: no command switches the clock pin's mode or reads it: `Co` is in no command's trace, from any state. -/
def Obligations.NoCommandSwitchesTheClockPin : Prop :=
  ∀ (i : Instr) (s t : State), i.isCommand = true → exec i s = .next t →
    Uop.cOut ∉ uopsOf (s.newEvents t) ∧ t.scl.mode = s.scl.mode

/-- R132, R143, R159, R213: the number of micro-operations, of Pin Driver calls, of pulses and of samples of each command
and outcome. -/
def Obligations.SizesOfTheTraces : Prop :=
  ∀ (i : Instr) (s t : State) (b : BusState), neededBusState i = some b → s.readyIn b →
    s.buf.length = s.cfg.bufDepth → exec i s = .next t →
    let us := uopsOf (s.newEvents t)
    let size := (us.length, (untimed us).length, pulses us, sampleCount us)
    match i with
    | .start => size = (3, 2, 0, 0)
    | .stop => size = (5, 2, 0, 0)
    | .wrb _ => size = if t.ackf then (49, 30, 9, 1) else (54, 32, 9, 1)
    | .rdb => size = (48, 29, 9, 8)
    | .wrt _ n =>
      (t.ackf = true → size = (49 * n.toNat + 57, 30 * n.toNat + 34, 9 * (n.toNat + 1), n.toNat + 1)) ∧
      (∀ k, s.cfg.resolveSda.readsInput → (∀ j, j < k → s.peerLowAt j = true) → s.peerLowAt k = false →
        k ≤ n.toNat →
        size = (49 * k + 57, 30 * k + 34, 9 * (k + 1), k + 1))
    | .rd1 _ => size = if t.ackf then (105, 63, 18, 9) else (57, 34, 9, 1)
    | .rd2 _ => size = if t.ackf then (153, 92, 27, 17) else (57, 34, 9, 1)
    | .rdn _ n =>
      size =
        if t.ackf then (48 * n.toNat + 57, 29 * n.toNat + 34, 9 * (n.toNat + 1), 8 * n.toNat + 1)
        else (57, 34, 9, 1)
    | _ => True

/-- R214: the lower bounds on the duration of each command, as sums of the constants. -/
def Obligations.LowerBoundsOnDuration : Prop :=
  ∀ (i : Instr) (s t : State) (b : BusState), neededBusState i = some b → s.readyIn b →
    s.buf.length = s.cfg.bufDepth → exec i s = .next t →
    let d := minDuration s.cfg (uopsOf (s.newEvents t))
    let p := s.cfg.tClkLowHold + s.cfg.tClkHighHold
    let byte := 9 * p + s.cfg.tInputSettle
    match i with
    | .start => d = s.cfg.tStartHold
    | .stop => d = p + s.cfg.tStopHold
    | .wrb _ => d = if t.ackf then byte else 10 * p + s.cfg.tInputSettle + s.cfg.tStopHold
    | .rdb => d = byte
    | .wrt _ n => t.ackf = true → d = s.cfg.tStartHold + (n.toNat + 1) * byte + p + s.cfg.tStopHold
    | .rd1 _ => t.ackf = true → d = s.cfg.tStartHold + 2 * byte + p + s.cfg.tStopHold
    | .rd2 _ => t.ackf = true → d = s.cfg.tStartHold + 3 * byte + p + s.cfg.tStopHold
    | .rdn _ n => t.ackf = true → d = s.cfg.tStartHold + (n.toNat + 1) * byte + p + s.cfg.tStopHold
    | _ => True

/-- R101: every timing that respects the waits lasts, from its first item to its last, at least the sum of the waits before
the last item; and there is one that lasts just that long. The second half is the model's choice (log 9): the spec leaves
the time of a Pin Driver call open, and the model counts none (R214). The ticks of each
wait are the subject of LowerBoundsOnDuration. -/
def Obligations.WaitsAreLowerBounds : Prop :=
  ∀ (c : Config) (us : List Uop) (u v : Uop),
    (∀ (times : List Nat) (t0 t1 : Nat), times.length = us.length →
      timingAllowed c ((u, t0) :: (us.zip times ++ [(v, t1)])) → t0 + minDuration c (u :: us) ≤ t1) ∧
    (∀ t0 : Nat, ∃ times : List Nat, times.length = us.length ∧
      timingAllowed c ((u, t0) :: (us.zip times ++ [(v, t0 + minDuration c (u :: us))])))

/-- 95_test_vectors.md S1, R52: the levels at the eight rising edges of a `WRB v`, given back as the answers of an `RDB`,
reproduce `v`. -/
def Obligations.LoopbackReproducesTheByte : Prop :=
  ∀ (v : BitVec 8) (s t u : State), s.readyIn .busy → exec (.wrb v) s = .next t → u.readyIn .busy →
    u.cfg.resolveSda.readsInput →
    u.answersAt 0 8 = (levelsAtRise s.sda (uopsOf (s.newEvents t))).take 8 →
    ∃ r, exec .rdb u = .next r ∧ r.rdata = v

/-! ### Equivalences -/

/-- R161: a `WRT` issues the trace of the byte-level commands a host would use by hand, and leaves the same pins and flag:
with every byte acknowledged the sequence ends with `STOP`; with a refusal at byte `k` it is cut after that `WRB`. -/
def Obligations.WriteTransactionEqualsItsByteCommands : Prop :=
  ∀ (a : BitVec 7) (n : BitVec 8) (s : State), s.readyIn .idle → s.cfg.resolveSda.readsInput → n.toNat ≤ s.cfg.bufDepth →
    s.buf.length = s.cfg.bufDepth →
    let bytes := (a.setWidth 8 <<< 1) :: s.buf.take n.toNat
    ((∀ j, j ≤ n.toNat → s.peerLowAt j = true) →
      ∃ t u, exec (.wrt a n) s = .next t ∧ execAll (.start :: bytes.map Instr.wrb ++ [.stop]) s = .next u ∧
        t = { u with addr := a, len := n, data := 0 }) ∧
    (∀ k, k ≤ n.toNat → (∀ j, j < k → s.peerLowAt j = true) → s.peerLowAt k = false →
      ∃ t u, exec (.wrt a n) s = .next t ∧
        execAll (.start :: (bytes.take (k + 1)).map Instr.wrb) s = .next u ∧
        t = { u with addr := a, len := n, data := 0 })

/-- R161: an `RDN` issues the trace of `START; WRB (a<<1)|1; RDB × n; STOP`, and of the first two alone where the address
byte is refused; pins and flag are the same, and `RDB` leaves the last byte in `RDATA`. -/
def Obligations.ReadTransactionEqualsItsByteCommands : Prop :=
  ∀ (a : BitVec 7) (n : BitVec 8) (s : State), s.readyIn .idle → s.cfg.resolveSda.readsInput → 1 ≤ n.toNat →
    n.toNat ≤ s.cfg.bufDepth → s.buf.length = s.cfg.bufDepth →
    (s.peerLowAt 0 = true →
      ∃ t u, exec (.rdn a n) s = .next t ∧
        execAll (.start :: .wrb ((a.setWidth 8 <<< 1) ||| 1#8) :: (List.replicate n.toNat .rdb ++ [.stop])) s =
          .next u ∧
        t.trace = u.trace ∧ t.scl = u.scl ∧ t.sda = u.sda ∧ t.ackf = u.ackf ∧
        u.rdata = t.buf.getD (n.toNat - 1) 0#8) ∧
    (s.peerLowAt 0 = false →
      ∃ t u, exec (.rdn a n) s = .next t ∧ execAll [.start, .wrb ((a.setWidth 8 <<< 1) ||| 1#8)] s = .next u ∧
        t.trace = u.trace ∧ t.scl = u.scl ∧ t.sda = u.sda ∧ t.ackf = u.ackf)

/-- R87: `RD1 a` issues exactly the trace of `RDN a, 1` and `RD2 a` that of `RDN a, 2`; they differ in the register that
takes the bytes. -/
def Obligations.FixedReadsAreBufferReads : Prop :=
  ∀ (a : BitVec 7) (s : State), s.readyIn .idle → 2 ≤ s.cfg.bufDepth → s.buf.length = s.cfg.bufDepth →
    (∃ t u, exec (.rd1 a) s = .next t ∧ exec (.rdn a 1) s = .next u ∧ t.trace = u.trace ∧ t.ackf = u.ackf ∧
      (t.ackf = true → u.buf.getD 0 0#8 = t.rdata)) ∧
    (∃ t u, exec (.rd2 a) s = .next t ∧ exec (.rdn a 2) s = .next u ∧ t.trace = u.trace ∧ t.ackf = u.ackf ∧
      (t.ackf = true → t.rword = u.buf.getD 0 0#8 ++ u.buf.getD 1 0#8))

/-! ### The two grains of a command -/

/-- R33, R57, R61: a command issued one micro-operation a step ends, after one step of acceptance and one step for each
micro-operation of its trace, in the state it ends in as one step; and it is refused at acceptance where it is refused as
one step. The two grains are the model's (log 1). -/
def Obligations.MicroOperationStepsEqualTheWholeCommand : Prop :=
  ∀ (s : State) (w : BitVec 32), s.uopPort = none → s.seq = .ready →
    (∀ t, step { s with host := [.command w] } = .next t →
      stepTimes (1 + (t.log.length - s.log.length)) { s with host := [.launch w] } = .next t) ∧
    (∀ r, step { s with host := [.command w] } = .refused r →
      step { s with host := [.launch w] } = .refused r)

/-- R33: between acceptance and its last micro-operation the command stands at `RUN(c, k)`, `BUSY` is 1, and `k` counts the
micro-operations issued. -/
def Obligations.PositionCountsTheMicroOperations : Prop :=
  ∀ (s t : State) (w : BitVec 32) (i : Instr) (k : Nat), s.uopPort = none → s.seq = .ready →
    decode s.cfg.bufDepth (.cmd w) = .ok i →
    step { s with host := [.command w] } = .next t → k < t.log.length - s.log.length →
    ∃ u answers, stepTimes (1 + k) { s with host := [.launch w] } = .next u ∧
      u.seq = .run i k answers ∧ u.busy = true ∧ s.newEvents u = (s.newEvents t).take k
end

