-- ==== Sys2Proof/Laws/Decode.lean ====
section
/-! SUPPORT. The fields of an assembled command word (R71) and the word of its fields, and what the masks of R74 leave of
one. -/

namespace Sys2Proof

namespace CmdWord

variable (o : BitVec 4) (z : BitVec 5) (a : PeerAddr) (n d : Byte)

@[simp] theorem data_assemble : data (assemble o z a n d) = d := by
  ext i h
  simp only [data, assemble, BitVec.getElem_extractLsb', BitVec.getLsbD_append]
  simp [h]

@[simp] theorem len_assemble : len (assemble o z a n d) = n := by
  ext i h
  simp only [len, assemble, BitVec.getElem_extractLsb', BitVec.getLsbD_append]
  simp [show ¬ (8 + i < 8) by omega, show 8 + i - 8 = i by omega, h]

@[simp] theorem addr_assemble : addr (assemble o z a n d) = a := by
  ext i h
  simp only [addr, assemble, BitVec.getElem_extractLsb', BitVec.getLsbD_append]
  simp [show ¬ (16 + i < 8) by omega, show ¬ (16 + i - 8 < 8) by omega, show 16 + i - 8 - 8 = i by omega, h]

@[simp] theorem zero_assemble : zero (assemble o z a n d) = z := by
  ext i h
  simp only [zero, assemble, BitVec.getElem_extractLsb', BitVec.getLsbD_append]
  simp [show ¬ (23 + i < 8) by omega, show ¬ (23 + i - 8 < 8) by omega, show ¬ (23 + i - 8 - 8 < 7) by omega,
    show 23 + i - 8 - 8 - 7 = i by omega, h]

@[simp] theorem op_assemble : op (assemble o z a n d) = o := by
  ext i h
  simp only [op, assemble, BitVec.getElem_extractLsb', BitVec.getLsbD_append]
  simp [show ¬ (28 + i < 8) by omega, show ¬ (28 + i - 8 < 8) by omega, show ¬ (28 + i - 8 - 8 < 7) by omega,
    show ¬ (28 + i - 8 - 8 - 7 < 5) by omega, show 28 + i - 8 - 8 - 7 - 5 = i by omega, h]

/-- A command word is the word of its five fields (R71). -/
theorem assemble_fields (w : CmdWord) : assemble (op w) (zero w) (addr w) (len w) (data w) = w := by
  apply BitVec.eq_of_getLsbD_eq
  intro i h
  have h : i < 4 + 5 + 7 + 8 + 8 := h
  simp only [assemble, op, zero, addr, len, data, BitVec.getLsbD_append, BitVec.getLsbD_extractLsb']
  split_ifs with h1 h2 h3 h4
  · simp [h1]
  · rw [decide_eq_true h2, show 8 + (i - 8) = i by omega]; simp
  · rw [decide_eq_true h3, show 16 + (i - 8 - 8) = i by omega]; simp
  · rw [decide_eq_true h4, show 23 + (i - 8 - 8 - 7) = i by omega]; simp
  · rw [decide_eq_true (show i - 8 - 8 - 7 - 5 < 4 by omega), show 28 + (i - 8 - 8 - 7 - 5) = i by omega]; simp

/-- A mask that is itself five fields acts on each field alone. -/
theorem assemble_and (o' : BitVec 4) (z' : BitVec 5) (a' : PeerAddr) (n' d' : Byte) :
    assemble o z a n d &&& assemble o' z' a' n' d' = assemble (o &&& o') (z &&& z') (a &&& a') (n &&& n') (d &&& d') := by
  have h : (o ++ z ++ a ++ n ++ d) &&& (o' ++ z' ++ a' ++ n' ++ d') =
      (o &&& o') ++ (z &&& z') ++ (a &&& a') ++ (n &&& n') ++ (d &&& d') := by
    simp only [BitVec.and_append]
  exact h

end CmdWord

/-- What is left of a `WRB` word under its row's mask. -/
theorem masked_data (o : BitVec 4) (d : Byte) :
    CmdWord.assemble o 0#5 0#7 0#8 d &&& 0xFFFFFF00#32 = CmdWord.assemble o 0#5 0#7 0#8 0#8 := by
  rw [show 0xFFFFFF00#32 = CmdWord.assemble (BitVec.allOnes 4) 31#5 127#7 255#8 0#8 by decide, CmdWord.assemble_and,
    BitVec.and_allOnes]
  simp

/-- What is left of an `RD1` or `RD2` word under its row's mask. -/
theorem masked_addr (o : BitVec 4) (a : PeerAddr) :
    CmdWord.assemble o 0#5 a 0#8 0#8 &&& 0xFF80FFFF#32 = CmdWord.assemble o 0#5 0#7 0#8 0#8 := by
  rw [show 0xFF80FFFF#32 = CmdWord.assemble (BitVec.allOnes 4) 31#5 0#7 255#8 255#8 by decide, CmdWord.assemble_and,
    BitVec.and_allOnes]
  simp

/-- What is left of a `WRT` or `RDN` word under its row's mask. -/
theorem masked_addr_len (o : BitVec 4) (a : PeerAddr) (n : Byte) :
    CmdWord.assemble o 0#5 a n 0#8 &&& 0xFF8000FF#32 = CmdWord.assemble o 0#5 0#7 0#8 0#8 := by
  rw [show 0xFF8000FF#32 = CmdWord.assemble (BitVec.allOnes 4) 31#5 0#7 0#8 255#8 by decide, CmdWord.assemble_and,
    BitVec.and_allOnes]
  simp

end Sys2Proof
end

