-- ==== Sys2Proof/Laws/State.lean ====
section
/-! SUPPORT. One lemma per field and update of State, true by unfolding, for simp. -/

namespace Sys2Proof.Machine.State

open Sys2Proof Sys2Proof.Machine

@[simp] theorem setSeq_cfg (s : State) (q : Seq) : (s.setSeq q).cfg = s.cfg := rfl
@[simp] theorem setSeq_seq (s : State) (q : Seq) : (s.setSeq q).seq = q := rfl
@[simp] theorem setSeq_addr (s : State) (q : Seq) : (s.setSeq q).addr = s.addr := rfl
@[simp] theorem setSeq_len (s : State) (q : Seq) : (s.setSeq q).len = s.len := rfl
@[simp] theorem setSeq_data (s : State) (q : Seq) : (s.setSeq q).data = s.data := rfl
@[simp] theorem setSeq_ackf (s : State) (q : Seq) : (s.setSeq q).ackf = s.ackf := rfl
@[simp] theorem setSeq_rdata (s : State) (q : Seq) : (s.setSeq q).rdata = s.rdata := rfl
@[simp] theorem setSeq_rword (s : State) (q : Seq) : (s.setSeq q).rword = s.rword := rfl
@[simp] theorem setSeq_buf (s : State) (q : Seq) : (s.setSeq q).buf = s.buf := rfl
@[simp] theorem setSeq_scl (s : State) (q : Seq) : (s.setSeq q).scl = s.scl := rfl
@[simp] theorem setSeq_sda (s : State) (q : Seq) : (s.setSeq q).sda = s.sda := rfl
@[simp] theorem setSeq_uopAns (s : State) (q : Seq) : (s.setSeq q).uopAns = s.uopAns := rfl
@[simp] theorem setSeq_uopPort (s : State) (q : Seq) : (s.setSeq q).uopPort = s.uopPort := rfl
@[simp] theorem setSeq_host (s : State) (q : Seq) : (s.setSeq q).host = s.host := rfl
@[simp] theorem setSeq_peers (s : State) (q : Seq) : (s.setSeq q).peers = s.peers := rfl
@[simp] theorem setSeq_wellBehaved (s : State) (q : Seq) : (s.setSeq q).wellBehaved = s.wellBehaved := rfl
@[simp] theorem setSeq_restAtLaunch (s : State) (q : Seq) : (s.setSeq q).restAtLaunch = s.restAtLaunch := rfl
@[simp] theorem setSeq_fresh (s : State) (q : Seq) : (s.setSeq q).fresh = s.fresh := rfl
@[simp] theorem setSeq_log (s : State) (q : Seq) : (s.setSeq q).log = s.log := rfl

@[simp] theorem setAck_cfg (s : State) (b : Bool) : (s.setAck b).cfg = s.cfg := rfl
@[simp] theorem setAck_seq (s : State) (b : Bool) : (s.setAck b).seq = s.seq := rfl
@[simp] theorem setAck_addr (s : State) (b : Bool) : (s.setAck b).addr = s.addr := rfl
@[simp] theorem setAck_len (s : State) (b : Bool) : (s.setAck b).len = s.len := rfl
@[simp] theorem setAck_data (s : State) (b : Bool) : (s.setAck b).data = s.data := rfl
@[simp] theorem setAck_ackf (s : State) (b : Bool) : (s.setAck b).ackf = b := rfl
@[simp] theorem setAck_rdata (s : State) (b : Bool) : (s.setAck b).rdata = s.rdata := rfl
@[simp] theorem setAck_rword (s : State) (b : Bool) : (s.setAck b).rword = s.rword := rfl
@[simp] theorem setAck_buf (s : State) (b : Bool) : (s.setAck b).buf = s.buf := rfl
@[simp] theorem setAck_scl (s : State) (b : Bool) : (s.setAck b).scl = s.scl := rfl
@[simp] theorem setAck_sda (s : State) (b : Bool) : (s.setAck b).sda = s.sda := rfl
@[simp] theorem setAck_uopAns (s : State) (b : Bool) : (s.setAck b).uopAns = s.uopAns := rfl
@[simp] theorem setAck_uopPort (s : State) (b : Bool) : (s.setAck b).uopPort = s.uopPort := rfl
@[simp] theorem setAck_host (s : State) (b : Bool) : (s.setAck b).host = s.host := rfl
@[simp] theorem setAck_peers (s : State) (b : Bool) : (s.setAck b).peers = s.peers := rfl
@[simp] theorem setAck_wellBehaved (s : State) (b : Bool) : (s.setAck b).wellBehaved = s.wellBehaved := rfl
@[simp] theorem setAck_restAtLaunch (s : State) (b : Bool) : (s.setAck b).restAtLaunch = s.restAtLaunch := rfl
@[simp] theorem setAck_fresh (s : State) (b : Bool) : (s.setAck b).fresh = s.fresh := rfl
@[simp] theorem setAck_log (s : State) (b : Bool) : (s.setAck b).log = s.log := rfl

@[simp] theorem setRData_cfg (s : State) (v : Byte) : (s.setRData v).cfg = s.cfg := rfl
@[simp] theorem setRData_seq (s : State) (v : Byte) : (s.setRData v).seq = s.seq := rfl
@[simp] theorem setRData_addr (s : State) (v : Byte) : (s.setRData v).addr = s.addr := rfl
@[simp] theorem setRData_len (s : State) (v : Byte) : (s.setRData v).len = s.len := rfl
@[simp] theorem setRData_data (s : State) (v : Byte) : (s.setRData v).data = s.data := rfl
@[simp] theorem setRData_ackf (s : State) (v : Byte) : (s.setRData v).ackf = s.ackf := rfl
@[simp] theorem setRData_rdata (s : State) (v : Byte) : (s.setRData v).rdata = v := rfl
@[simp] theorem setRData_rword (s : State) (v : Byte) : (s.setRData v).rword = s.rword := rfl
@[simp] theorem setRData_buf (s : State) (v : Byte) : (s.setRData v).buf = s.buf := rfl
@[simp] theorem setRData_scl (s : State) (v : Byte) : (s.setRData v).scl = s.scl := rfl
@[simp] theorem setRData_sda (s : State) (v : Byte) : (s.setRData v).sda = s.sda := rfl
@[simp] theorem setRData_uopAns (s : State) (v : Byte) : (s.setRData v).uopAns = s.uopAns := rfl
@[simp] theorem setRData_uopPort (s : State) (v : Byte) : (s.setRData v).uopPort = s.uopPort := rfl
@[simp] theorem setRData_host (s : State) (v : Byte) : (s.setRData v).host = s.host := rfl
@[simp] theorem setRData_peers (s : State) (v : Byte) : (s.setRData v).peers = s.peers := rfl
@[simp] theorem setRData_wellBehaved (s : State) (v : Byte) : (s.setRData v).wellBehaved = s.wellBehaved := rfl
@[simp] theorem setRData_restAtLaunch (s : State) (v : Byte) : (s.setRData v).restAtLaunch = s.restAtLaunch := rfl
@[simp] theorem setRData_fresh (s : State) (v : Byte) : (s.setRData v).fresh = s.fresh := rfl
@[simp] theorem setRData_log (s : State) (v : Byte) : (s.setRData v).log = s.log := rfl

@[simp] theorem setRWord_cfg (s : State) (v : Word16) : (s.setRWord v).cfg = s.cfg := rfl
@[simp] theorem setRWord_seq (s : State) (v : Word16) : (s.setRWord v).seq = s.seq := rfl
@[simp] theorem setRWord_addr (s : State) (v : Word16) : (s.setRWord v).addr = s.addr := rfl
@[simp] theorem setRWord_len (s : State) (v : Word16) : (s.setRWord v).len = s.len := rfl
@[simp] theorem setRWord_data (s : State) (v : Word16) : (s.setRWord v).data = s.data := rfl
@[simp] theorem setRWord_ackf (s : State) (v : Word16) : (s.setRWord v).ackf = s.ackf := rfl
@[simp] theorem setRWord_rdata (s : State) (v : Word16) : (s.setRWord v).rdata = s.rdata := rfl
@[simp] theorem setRWord_rword (s : State) (v : Word16) : (s.setRWord v).rword = v := rfl
@[simp] theorem setRWord_buf (s : State) (v : Word16) : (s.setRWord v).buf = s.buf := rfl
@[simp] theorem setRWord_scl (s : State) (v : Word16) : (s.setRWord v).scl = s.scl := rfl
@[simp] theorem setRWord_sda (s : State) (v : Word16) : (s.setRWord v).sda = s.sda := rfl
@[simp] theorem setRWord_uopAns (s : State) (v : Word16) : (s.setRWord v).uopAns = s.uopAns := rfl
@[simp] theorem setRWord_uopPort (s : State) (v : Word16) : (s.setRWord v).uopPort = s.uopPort := rfl
@[simp] theorem setRWord_host (s : State) (v : Word16) : (s.setRWord v).host = s.host := rfl
@[simp] theorem setRWord_peers (s : State) (v : Word16) : (s.setRWord v).peers = s.peers := rfl
@[simp] theorem setRWord_wellBehaved (s : State) (v : Word16) : (s.setRWord v).wellBehaved = s.wellBehaved := rfl
@[simp] theorem setRWord_restAtLaunch (s : State) (v : Word16) : (s.setRWord v).restAtLaunch = s.restAtLaunch := rfl
@[simp] theorem setRWord_fresh (s : State) (v : Word16) : (s.setRWord v).fresh = s.fresh := rfl
@[simp] theorem setRWord_log (s : State) (v : Word16) : (s.setRWord v).log = s.log := rfl

@[simp] theorem setBuf_cfg (s : State) (b : List Byte) : (s.setBuf b).cfg = s.cfg := rfl
@[simp] theorem setBuf_seq (s : State) (b : List Byte) : (s.setBuf b).seq = s.seq := rfl
@[simp] theorem setBuf_addr (s : State) (b : List Byte) : (s.setBuf b).addr = s.addr := rfl
@[simp] theorem setBuf_len (s : State) (b : List Byte) : (s.setBuf b).len = s.len := rfl
@[simp] theorem setBuf_data (s : State) (b : List Byte) : (s.setBuf b).data = s.data := rfl
@[simp] theorem setBuf_ackf (s : State) (b : List Byte) : (s.setBuf b).ackf = s.ackf := rfl
@[simp] theorem setBuf_rdata (s : State) (b : List Byte) : (s.setBuf b).rdata = s.rdata := rfl
@[simp] theorem setBuf_rword (s : State) (b : List Byte) : (s.setBuf b).rword = s.rword := rfl
@[simp] theorem setBuf_buf (s : State) (b : List Byte) : (s.setBuf b).buf = b := rfl
@[simp] theorem setBuf_scl (s : State) (b : List Byte) : (s.setBuf b).scl = s.scl := rfl
@[simp] theorem setBuf_sda (s : State) (b : List Byte) : (s.setBuf b).sda = s.sda := rfl
@[simp] theorem setBuf_uopAns (s : State) (b : List Byte) : (s.setBuf b).uopAns = s.uopAns := rfl
@[simp] theorem setBuf_uopPort (s : State) (b : List Byte) : (s.setBuf b).uopPort = s.uopPort := rfl
@[simp] theorem setBuf_host (s : State) (b : List Byte) : (s.setBuf b).host = s.host := rfl
@[simp] theorem setBuf_peers (s : State) (b : List Byte) : (s.setBuf b).peers = s.peers := rfl
@[simp] theorem setBuf_wellBehaved (s : State) (b : List Byte) : (s.setBuf b).wellBehaved = s.wellBehaved := rfl
@[simp] theorem setBuf_restAtLaunch (s : State) (b : List Byte) : (s.setBuf b).restAtLaunch = s.restAtLaunch := rfl
@[simp] theorem setBuf_fresh (s : State) (b : List Byte) : (s.setBuf b).fresh = s.fresh := rfl
@[simp] theorem setBuf_log (s : State) (b : List Byte) : (s.setBuf b).log = s.log := rfl

@[simp] theorem setOperands_cfg (s : State) (a : PeerAddr) (n d : Byte) : (s.setOperands a n d).cfg = s.cfg := rfl
@[simp] theorem setOperands_seq (s : State) (a : PeerAddr) (n d : Byte) : (s.setOperands a n d).seq = s.seq := rfl
@[simp] theorem setOperands_addr (s : State) (a : PeerAddr) (n d : Byte) : (s.setOperands a n d).addr = a := rfl
@[simp] theorem setOperands_len (s : State) (a : PeerAddr) (n d : Byte) : (s.setOperands a n d).len = n := rfl
@[simp] theorem setOperands_data (s : State) (a : PeerAddr) (n d : Byte) : (s.setOperands a n d).data = d := rfl
@[simp] theorem setOperands_ackf (s : State) (a : PeerAddr) (n d : Byte) : (s.setOperands a n d).ackf = s.ackf := rfl
@[simp] theorem setOperands_rdata (s : State) (a : PeerAddr) (n d : Byte) : (s.setOperands a n d).rdata = s.rdata := rfl
@[simp] theorem setOperands_rword (s : State) (a : PeerAddr) (n d : Byte) : (s.setOperands a n d).rword = s.rword := rfl
@[simp] theorem setOperands_buf (s : State) (a : PeerAddr) (n d : Byte) : (s.setOperands a n d).buf = s.buf := rfl
@[simp] theorem setOperands_scl (s : State) (a : PeerAddr) (n d : Byte) : (s.setOperands a n d).scl = s.scl := rfl
@[simp] theorem setOperands_sda (s : State) (a : PeerAddr) (n d : Byte) : (s.setOperands a n d).sda = s.sda := rfl
@[simp] theorem setOperands_uopAns (s : State) (a : PeerAddr) (n d : Byte) : (s.setOperands a n d).uopAns = s.uopAns := rfl
@[simp] theorem setOperands_uopPort (s : State) (a : PeerAddr) (n d : Byte) : (s.setOperands a n d).uopPort = s.uopPort := rfl
@[simp] theorem setOperands_host (s : State) (a : PeerAddr) (n d : Byte) : (s.setOperands a n d).host = s.host := rfl
@[simp] theorem setOperands_peers (s : State) (a : PeerAddr) (n d : Byte) : (s.setOperands a n d).peers = s.peers := rfl
@[simp] theorem setOperands_wellBehaved (s : State) (a : PeerAddr) (n d : Byte) : (s.setOperands a n d).wellBehaved = s.wellBehaved := rfl
@[simp] theorem setOperands_restAtLaunch (s : State) (a : PeerAddr) (n d : Byte) : (s.setOperands a n d).restAtLaunch = s.restAtLaunch := rfl
@[simp] theorem setOperands_fresh (s : State) (a : PeerAddr) (n d : Byte) : (s.setOperands a n d).fresh = s.fresh := rfl
@[simp] theorem setOperands_log (s : State) (a : PeerAddr) (n d : Byte) : (s.setOperands a n d).log = s.log := rfl

@[simp] theorem setScl_cfg (s : State) (p : Pin) : (s.setScl p).cfg = s.cfg := rfl
@[simp] theorem setScl_seq (s : State) (p : Pin) : (s.setScl p).seq = s.seq := rfl
@[simp] theorem setScl_addr (s : State) (p : Pin) : (s.setScl p).addr = s.addr := rfl
@[simp] theorem setScl_len (s : State) (p : Pin) : (s.setScl p).len = s.len := rfl
@[simp] theorem setScl_data (s : State) (p : Pin) : (s.setScl p).data = s.data := rfl
@[simp] theorem setScl_ackf (s : State) (p : Pin) : (s.setScl p).ackf = s.ackf := rfl
@[simp] theorem setScl_rdata (s : State) (p : Pin) : (s.setScl p).rdata = s.rdata := rfl
@[simp] theorem setScl_rword (s : State) (p : Pin) : (s.setScl p).rword = s.rword := rfl
@[simp] theorem setScl_buf (s : State) (p : Pin) : (s.setScl p).buf = s.buf := rfl
@[simp] theorem setScl_scl (s : State) (p : Pin) : (s.setScl p).scl = p := rfl
@[simp] theorem setScl_sda (s : State) (p : Pin) : (s.setScl p).sda = s.sda := rfl
@[simp] theorem setScl_uopAns (s : State) (p : Pin) : (s.setScl p).uopAns = s.uopAns := rfl
@[simp] theorem setScl_uopPort (s : State) (p : Pin) : (s.setScl p).uopPort = s.uopPort := rfl
@[simp] theorem setScl_host (s : State) (p : Pin) : (s.setScl p).host = s.host := rfl
@[simp] theorem setScl_peers (s : State) (p : Pin) : (s.setScl p).peers = s.peers := rfl
@[simp] theorem setScl_wellBehaved (s : State) (p : Pin) : (s.setScl p).wellBehaved = s.wellBehaved := rfl
@[simp] theorem setScl_restAtLaunch (s : State) (p : Pin) : (s.setScl p).restAtLaunch = s.restAtLaunch := rfl
@[simp] theorem setScl_fresh (s : State) (p : Pin) : (s.setScl p).fresh = s.fresh := rfl
@[simp] theorem setScl_log (s : State) (p : Pin) : (s.setScl p).log = s.log := rfl

@[simp] theorem setSda_cfg (s : State) (p : Pin) : (s.setSda p).cfg = s.cfg := rfl
@[simp] theorem setSda_seq (s : State) (p : Pin) : (s.setSda p).seq = s.seq := rfl
@[simp] theorem setSda_addr (s : State) (p : Pin) : (s.setSda p).addr = s.addr := rfl
@[simp] theorem setSda_len (s : State) (p : Pin) : (s.setSda p).len = s.len := rfl
@[simp] theorem setSda_data (s : State) (p : Pin) : (s.setSda p).data = s.data := rfl
@[simp] theorem setSda_ackf (s : State) (p : Pin) : (s.setSda p).ackf = s.ackf := rfl
@[simp] theorem setSda_rdata (s : State) (p : Pin) : (s.setSda p).rdata = s.rdata := rfl
@[simp] theorem setSda_rword (s : State) (p : Pin) : (s.setSda p).rword = s.rword := rfl
@[simp] theorem setSda_buf (s : State) (p : Pin) : (s.setSda p).buf = s.buf := rfl
@[simp] theorem setSda_scl (s : State) (p : Pin) : (s.setSda p).scl = s.scl := rfl
@[simp] theorem setSda_sda (s : State) (p : Pin) : (s.setSda p).sda = p := rfl
@[simp] theorem setSda_uopAns (s : State) (p : Pin) : (s.setSda p).uopAns = s.uopAns := rfl
@[simp] theorem setSda_uopPort (s : State) (p : Pin) : (s.setSda p).uopPort = s.uopPort := rfl
@[simp] theorem setSda_host (s : State) (p : Pin) : (s.setSda p).host = s.host := rfl
@[simp] theorem setSda_peers (s : State) (p : Pin) : (s.setSda p).peers = s.peers := rfl
@[simp] theorem setSda_wellBehaved (s : State) (p : Pin) : (s.setSda p).wellBehaved = s.wellBehaved := rfl
@[simp] theorem setSda_restAtLaunch (s : State) (p : Pin) : (s.setSda p).restAtLaunch = s.restAtLaunch := rfl
@[simp] theorem setSda_fresh (s : State) (p : Pin) : (s.setSda p).fresh = s.fresh := rfl
@[simp] theorem setSda_log (s : State) (p : Pin) : (s.setSda p).log = s.log := rfl

@[simp] theorem setUopAns_cfg (s : State) (l : Level) : (s.setUopAns l).cfg = s.cfg := rfl
@[simp] theorem setUopAns_seq (s : State) (l : Level) : (s.setUopAns l).seq = s.seq := rfl
@[simp] theorem setUopAns_addr (s : State) (l : Level) : (s.setUopAns l).addr = s.addr := rfl
@[simp] theorem setUopAns_len (s : State) (l : Level) : (s.setUopAns l).len = s.len := rfl
@[simp] theorem setUopAns_data (s : State) (l : Level) : (s.setUopAns l).data = s.data := rfl
@[simp] theorem setUopAns_ackf (s : State) (l : Level) : (s.setUopAns l).ackf = s.ackf := rfl
@[simp] theorem setUopAns_rdata (s : State) (l : Level) : (s.setUopAns l).rdata = s.rdata := rfl
@[simp] theorem setUopAns_rword (s : State) (l : Level) : (s.setUopAns l).rword = s.rword := rfl
@[simp] theorem setUopAns_buf (s : State) (l : Level) : (s.setUopAns l).buf = s.buf := rfl
@[simp] theorem setUopAns_scl (s : State) (l : Level) : (s.setUopAns l).scl = s.scl := rfl
@[simp] theorem setUopAns_sda (s : State) (l : Level) : (s.setUopAns l).sda = s.sda := rfl
@[simp] theorem setUopAns_uopAns (s : State) (l : Level) : (s.setUopAns l).uopAns = l := rfl
@[simp] theorem setUopAns_uopPort (s : State) (l : Level) : (s.setUopAns l).uopPort = s.uopPort := rfl
@[simp] theorem setUopAns_host (s : State) (l : Level) : (s.setUopAns l).host = s.host := rfl
@[simp] theorem setUopAns_peers (s : State) (l : Level) : (s.setUopAns l).peers = s.peers := rfl
@[simp] theorem setUopAns_wellBehaved (s : State) (l : Level) : (s.setUopAns l).wellBehaved = s.wellBehaved := rfl
@[simp] theorem setUopAns_restAtLaunch (s : State) (l : Level) : (s.setUopAns l).restAtLaunch = s.restAtLaunch := rfl
@[simp] theorem setUopAns_fresh (s : State) (l : Level) : (s.setUopAns l).fresh = s.fresh := rfl
@[simp] theorem setUopAns_log (s : State) (l : Level) : (s.setUopAns l).log = s.log := rfl

@[simp] theorem setUopPort_cfg (s : State) (w : Option UopWord) : (s.setUopPort w).cfg = s.cfg := rfl
@[simp] theorem setUopPort_seq (s : State) (w : Option UopWord) : (s.setUopPort w).seq = s.seq := rfl
@[simp] theorem setUopPort_addr (s : State) (w : Option UopWord) : (s.setUopPort w).addr = s.addr := rfl
@[simp] theorem setUopPort_len (s : State) (w : Option UopWord) : (s.setUopPort w).len = s.len := rfl
@[simp] theorem setUopPort_data (s : State) (w : Option UopWord) : (s.setUopPort w).data = s.data := rfl
@[simp] theorem setUopPort_ackf (s : State) (w : Option UopWord) : (s.setUopPort w).ackf = s.ackf := rfl
@[simp] theorem setUopPort_rdata (s : State) (w : Option UopWord) : (s.setUopPort w).rdata = s.rdata := rfl
@[simp] theorem setUopPort_rword (s : State) (w : Option UopWord) : (s.setUopPort w).rword = s.rword := rfl
@[simp] theorem setUopPort_buf (s : State) (w : Option UopWord) : (s.setUopPort w).buf = s.buf := rfl
@[simp] theorem setUopPort_scl (s : State) (w : Option UopWord) : (s.setUopPort w).scl = s.scl := rfl
@[simp] theorem setUopPort_sda (s : State) (w : Option UopWord) : (s.setUopPort w).sda = s.sda := rfl
@[simp] theorem setUopPort_uopAns (s : State) (w : Option UopWord) : (s.setUopPort w).uopAns = s.uopAns := rfl
@[simp] theorem setUopPort_uopPort (s : State) (w : Option UopWord) : (s.setUopPort w).uopPort = w := rfl
@[simp] theorem setUopPort_host (s : State) (w : Option UopWord) : (s.setUopPort w).host = s.host := rfl
@[simp] theorem setUopPort_peers (s : State) (w : Option UopWord) : (s.setUopPort w).peers = s.peers := rfl
@[simp] theorem setUopPort_wellBehaved (s : State) (w : Option UopWord) : (s.setUopPort w).wellBehaved = s.wellBehaved := rfl
@[simp] theorem setUopPort_restAtLaunch (s : State) (w : Option UopWord) : (s.setUopPort w).restAtLaunch = s.restAtLaunch := rfl
@[simp] theorem setUopPort_fresh (s : State) (w : Option UopWord) : (s.setUopPort w).fresh = s.fresh := rfl
@[simp] theorem setUopPort_log (s : State) (w : Option UopWord) : (s.setUopPort w).log = s.log := rfl

@[simp] theorem setHost_cfg (s : State) (h : List HostAction) : (s.setHost h).cfg = s.cfg := rfl
@[simp] theorem setHost_seq (s : State) (h : List HostAction) : (s.setHost h).seq = s.seq := rfl
@[simp] theorem setHost_addr (s : State) (h : List HostAction) : (s.setHost h).addr = s.addr := rfl
@[simp] theorem setHost_len (s : State) (h : List HostAction) : (s.setHost h).len = s.len := rfl
@[simp] theorem setHost_data (s : State) (h : List HostAction) : (s.setHost h).data = s.data := rfl
@[simp] theorem setHost_ackf (s : State) (h : List HostAction) : (s.setHost h).ackf = s.ackf := rfl
@[simp] theorem setHost_rdata (s : State) (h : List HostAction) : (s.setHost h).rdata = s.rdata := rfl
@[simp] theorem setHost_rword (s : State) (h : List HostAction) : (s.setHost h).rword = s.rword := rfl
@[simp] theorem setHost_buf (s : State) (h : List HostAction) : (s.setHost h).buf = s.buf := rfl
@[simp] theorem setHost_scl (s : State) (h : List HostAction) : (s.setHost h).scl = s.scl := rfl
@[simp] theorem setHost_sda (s : State) (h : List HostAction) : (s.setHost h).sda = s.sda := rfl
@[simp] theorem setHost_uopAns (s : State) (h : List HostAction) : (s.setHost h).uopAns = s.uopAns := rfl
@[simp] theorem setHost_uopPort (s : State) (h : List HostAction) : (s.setHost h).uopPort = s.uopPort := rfl
@[simp] theorem setHost_host (s : State) (h : List HostAction) : (s.setHost h).host = h := rfl
@[simp] theorem setHost_peers (s : State) (h : List HostAction) : (s.setHost h).peers = s.peers := rfl
@[simp] theorem setHost_wellBehaved (s : State) (h : List HostAction) : (s.setHost h).wellBehaved = s.wellBehaved := rfl
@[simp] theorem setHost_restAtLaunch (s : State) (h : List HostAction) : (s.setHost h).restAtLaunch = s.restAtLaunch := rfl
@[simp] theorem setHost_fresh (s : State) (h : List HostAction) : (s.setHost h).fresh = s.fresh := rfl
@[simp] theorem setHost_log (s : State) (h : List HostAction) : (s.setHost h).log = s.log := rfl

@[simp] theorem setPeers_cfg (s : State) (ps : List Bool) : (s.setPeers ps).cfg = s.cfg := rfl
@[simp] theorem setPeers_seq (s : State) (ps : List Bool) : (s.setPeers ps).seq = s.seq := rfl
@[simp] theorem setPeers_addr (s : State) (ps : List Bool) : (s.setPeers ps).addr = s.addr := rfl
@[simp] theorem setPeers_len (s : State) (ps : List Bool) : (s.setPeers ps).len = s.len := rfl
@[simp] theorem setPeers_data (s : State) (ps : List Bool) : (s.setPeers ps).data = s.data := rfl
@[simp] theorem setPeers_ackf (s : State) (ps : List Bool) : (s.setPeers ps).ackf = s.ackf := rfl
@[simp] theorem setPeers_rdata (s : State) (ps : List Bool) : (s.setPeers ps).rdata = s.rdata := rfl
@[simp] theorem setPeers_rword (s : State) (ps : List Bool) : (s.setPeers ps).rword = s.rword := rfl
@[simp] theorem setPeers_buf (s : State) (ps : List Bool) : (s.setPeers ps).buf = s.buf := rfl
@[simp] theorem setPeers_scl (s : State) (ps : List Bool) : (s.setPeers ps).scl = s.scl := rfl
@[simp] theorem setPeers_sda (s : State) (ps : List Bool) : (s.setPeers ps).sda = s.sda := rfl
@[simp] theorem setPeers_uopAns (s : State) (ps : List Bool) : (s.setPeers ps).uopAns = s.uopAns := rfl
@[simp] theorem setPeers_uopPort (s : State) (ps : List Bool) : (s.setPeers ps).uopPort = s.uopPort := rfl
@[simp] theorem setPeers_host (s : State) (ps : List Bool) : (s.setPeers ps).host = s.host := rfl
@[simp] theorem setPeers_peers (s : State) (ps : List Bool) : (s.setPeers ps).peers = ps := rfl
@[simp] theorem setPeers_wellBehaved (s : State) (ps : List Bool) : (s.setPeers ps).wellBehaved = s.wellBehaved := rfl
@[simp] theorem setPeers_restAtLaunch (s : State) (ps : List Bool) : (s.setPeers ps).restAtLaunch = s.restAtLaunch := rfl
@[simp] theorem setPeers_fresh (s : State) (ps : List Bool) : (s.setPeers ps).fresh = s.fresh := rfl
@[simp] theorem setPeers_log (s : State) (ps : List Bool) : (s.setPeers ps).log = s.log := rfl

@[simp] theorem setFresh_cfg (s : State) (n : Nat) : (s.setFresh n).cfg = s.cfg := rfl
@[simp] theorem setFresh_seq (s : State) (n : Nat) : (s.setFresh n).seq = s.seq := rfl
@[simp] theorem setFresh_addr (s : State) (n : Nat) : (s.setFresh n).addr = s.addr := rfl
@[simp] theorem setFresh_len (s : State) (n : Nat) : (s.setFresh n).len = s.len := rfl
@[simp] theorem setFresh_data (s : State) (n : Nat) : (s.setFresh n).data = s.data := rfl
@[simp] theorem setFresh_ackf (s : State) (n : Nat) : (s.setFresh n).ackf = s.ackf := rfl
@[simp] theorem setFresh_rdata (s : State) (n : Nat) : (s.setFresh n).rdata = s.rdata := rfl
@[simp] theorem setFresh_rword (s : State) (n : Nat) : (s.setFresh n).rword = s.rword := rfl
@[simp] theorem setFresh_buf (s : State) (n : Nat) : (s.setFresh n).buf = s.buf := rfl
@[simp] theorem setFresh_scl (s : State) (n : Nat) : (s.setFresh n).scl = s.scl := rfl
@[simp] theorem setFresh_sda (s : State) (n : Nat) : (s.setFresh n).sda = s.sda := rfl
@[simp] theorem setFresh_uopAns (s : State) (n : Nat) : (s.setFresh n).uopAns = s.uopAns := rfl
@[simp] theorem setFresh_uopPort (s : State) (n : Nat) : (s.setFresh n).uopPort = s.uopPort := rfl
@[simp] theorem setFresh_host (s : State) (n : Nat) : (s.setFresh n).host = s.host := rfl
@[simp] theorem setFresh_peers (s : State) (n : Nat) : (s.setFresh n).peers = s.peers := rfl
@[simp] theorem setFresh_wellBehaved (s : State) (n : Nat) : (s.setFresh n).wellBehaved = s.wellBehaved := rfl
@[simp] theorem setFresh_restAtLaunch (s : State) (n : Nat) : (s.setFresh n).restAtLaunch = s.restAtLaunch := rfl
@[simp] theorem setFresh_fresh (s : State) (n : Nat) : (s.setFresh n).fresh = n := rfl
@[simp] theorem setFresh_log (s : State) (n : Nat) : (s.setFresh n).log = s.log := rfl

@[simp] theorem logged_cfg (s : State) (e : Event) : (s.logged e).cfg = s.cfg := rfl
@[simp] theorem logged_seq (s : State) (e : Event) : (s.logged e).seq = s.seq := rfl
@[simp] theorem logged_addr (s : State) (e : Event) : (s.logged e).addr = s.addr := rfl
@[simp] theorem logged_len (s : State) (e : Event) : (s.logged e).len = s.len := rfl
@[simp] theorem logged_data (s : State) (e : Event) : (s.logged e).data = s.data := rfl
@[simp] theorem logged_ackf (s : State) (e : Event) : (s.logged e).ackf = s.ackf := rfl
@[simp] theorem logged_rdata (s : State) (e : Event) : (s.logged e).rdata = s.rdata := rfl
@[simp] theorem logged_rword (s : State) (e : Event) : (s.logged e).rword = s.rword := rfl
@[simp] theorem logged_buf (s : State) (e : Event) : (s.logged e).buf = s.buf := rfl
@[simp] theorem logged_scl (s : State) (e : Event) : (s.logged e).scl = s.scl := rfl
@[simp] theorem logged_sda (s : State) (e : Event) : (s.logged e).sda = s.sda := rfl
@[simp] theorem logged_uopAns (s : State) (e : Event) : (s.logged e).uopAns = s.uopAns := rfl
@[simp] theorem logged_uopPort (s : State) (e : Event) : (s.logged e).uopPort = s.uopPort := rfl
@[simp] theorem logged_host (s : State) (e : Event) : (s.logged e).host = s.host := rfl
@[simp] theorem logged_peers (s : State) (e : Event) : (s.logged e).peers = s.peers := rfl
@[simp] theorem logged_wellBehaved (s : State) (e : Event) : (s.logged e).wellBehaved = s.wellBehaved := rfl
@[simp] theorem logged_restAtLaunch (s : State) (e : Event) : (s.logged e).restAtLaunch = s.restAtLaunch := rfl
@[simp] theorem logged_fresh (s : State) (e : Event) : (s.logged e).fresh = s.fresh := rfl
@[simp] theorem logged_log (s : State) (e : Event) : (s.logged e).log = e :: s.log := rfl

@[simp] theorem resetWith_cfg (c : Config) : (resetWith c).cfg = c := rfl
@[simp] theorem resetWith_seq (c : Config) : (resetWith c).seq = .ready := rfl
@[simp] theorem resetWith_ackf (c : Config) : (resetWith c).ackf = false := rfl
@[simp] theorem resetWith_buf (c : Config) : (resetWith c).buf = List.replicate c.bufDepth 0 := rfl
@[simp] theorem resetWith_scl (c : Config) : (resetWith c).scl = ⟨.output, .high⟩ := rfl
@[simp] theorem resetWith_sda (c : Config) : (resetWith c).sda = ⟨.output, .high⟩ := rfl
@[simp] theorem resetWith_uopPort (c : Config) : (resetWith c).uopPort = none := rfl
@[simp] theorem resetWith_host (c : Config) : (resetWith c).host = [] := rfl
@[simp] theorem resetWith_peers (c : Config) : (resetWith c).peers = [] := rfl
@[simp] theorem resetWith_wellBehaved (c : Config) : (resetWith c).wellBehaved = true := rfl
@[simp] theorem resetWith_restAtLaunch (c : Config) : (resetWith c).restAtLaunch = true := rfl

end Sys2Proof.Machine.State
end

