-- ==== Sys2Proof/Laws/Ops.lean ====
section
/-! SUPPORT. What the shared operations do, once each: the pins' calls, the sample, one micro-operation, the canonical
form `State.ran` of a state after some micro-operations, and the buffer's length. -/

namespace Sys2Proof.Machine

open Sys2Proof

@[simp] theorem Pin.set_mode (p : Pin) (l : Level) : (p.set l).mode = p.mode := rfl
@[simp] theorem Pin.set_latch (p : Pin) (l : Level) : (p.set l).latch = l := rfl
@[simp] theorem Pin.out_mode (p : Pin) : p.out.mode = .output := rfl
@[simp] theorem Pin.out_latch (p : Pin) : p.out.latch = p.latch := rfl
@[simp] theorem Pin.inPullup_mode (p : Pin) : p.inPullup.mode = .inputPullup := rfl
@[simp] theorem Pin.inPullup_latch (p : Pin) : p.inPullup.latch = p.latch := rfl

/-- The state after micro-operations: the pins, the last answer, `n` samples taken, the items `es` added to the trace; all
else is as in `s`. -/
def State.ran (s : State) (scl sda : Pin) (ans : Level) (n : Nat) (es : List Event) : State :=
  { s with
    scl := scl, sda := sda, uopAns := ans, peers := s.peers.drop n, fresh := s.fresh + n,
    log := es.reverse ++ s.log }

section ran
variable (s : State) (scl sda : Pin) (ans : Level) (n : Nat) (es : List Event)

@[simp] theorem State.ran_cfg : (s.ran scl sda ans n es).cfg = s.cfg := rfl
@[simp] theorem State.ran_seq : (s.ran scl sda ans n es).seq = s.seq := rfl
@[simp] theorem State.ran_addr : (s.ran scl sda ans n es).addr = s.addr := rfl
@[simp] theorem State.ran_len : (s.ran scl sda ans n es).len = s.len := rfl
@[simp] theorem State.ran_data : (s.ran scl sda ans n es).data = s.data := rfl
@[simp] theorem State.ran_ackf : (s.ran scl sda ans n es).ackf = s.ackf := rfl
@[simp] theorem State.ran_rdata : (s.ran scl sda ans n es).rdata = s.rdata := rfl
@[simp] theorem State.ran_rword : (s.ran scl sda ans n es).rword = s.rword := rfl
@[simp] theorem State.ran_buf : (s.ran scl sda ans n es).buf = s.buf := rfl
@[simp] theorem State.ran_scl : (s.ran scl sda ans n es).scl = scl := rfl
@[simp] theorem State.ran_sda : (s.ran scl sda ans n es).sda = sda := rfl
@[simp] theorem State.ran_uopAns : (s.ran scl sda ans n es).uopAns = ans := rfl
@[simp] theorem State.ran_uopPort : (s.ran scl sda ans n es).uopPort = s.uopPort := rfl
@[simp] theorem State.ran_host : (s.ran scl sda ans n es).host = s.host := rfl
@[simp] theorem State.ran_peers : (s.ran scl sda ans n es).peers = s.peers.drop n := rfl
@[simp] theorem State.ran_wellBehaved : (s.ran scl sda ans n es).wellBehaved = s.wellBehaved := rfl
@[simp] theorem State.ran_restAtLaunch : (s.ran scl sda ans n es).restAtLaunch = s.restAtLaunch := rfl
@[simp] theorem State.ran_fresh : (s.ran scl sda ans n es).fresh = s.fresh + n := rfl
@[simp] theorem State.ran_log : (s.ran scl sda ans n es).log = es.reverse ++ s.log := rfl

end ran

/-- Running on from a canonical form gives one canonical form. -/
@[simp] theorem State.ran_ran (s : State) (p q p' q' : Pin) (a a' : Level) (n m : Nat) (es fs : List Event) :
    (s.ran p q a n es).ran p' q' a' m fs = s.ran p' q' a' (n + m) (es ++ fs) := by
  simp [State.ran, List.drop_drop, Nat.add_assoc]

/-- The samples still to come, seen from a canonical form, are those of the start, `n` further on. -/
@[simp] theorem State.ran_peerLowAt (s : State) (p q : Pin) (a : Level) (n j : Nat) (es : List Event) :
    (s.ran p q a n es).peerLowAt j = s.peerLowAt (n + j) := by
  simp [State.peerLowAt, List.getElem?_drop, Nat.add_assoc]

/-- No micro-operation at all. -/
theorem State.ran_nil (s : State) : s.ran s.scl s.sda s.uopAns 0 [] = s := by
  simp [State.ran]

@[simp] theorem answerLevel_true : answerLevel true = .low := rfl
@[simp] theorem answerLevel_false : answerLevel false = .high := rfl

@[simp] theorem acknowledged_answerLevel (b : Bool) : acknowledged (answerLevel b) = b := by cases b <;> rfl

/-- A sample in input mode is the environment's answer, whatever the latch (R38). -/
theorem wireLevel_input {r : SdaResolve} (h : r.readsInput) (l : Level) (b : Bool) (n : Nat) :
    wireLevel r ⟨.inputPullup, l⟩ b n = answerLevel b := by
  obtain ⟨hl, hh⟩ := h
  cases l <;> cases b <;> simp [wireLevel, wireEntry, wireRow, hl, hh, answerLevel]

/-- A sample where `resolve_sda` gives a level (R40). -/
theorem wireLevel_of_entry {r : SdaResolve} {p : Pin} {b : Bool} {l : Level} (h : wireEntry r p b = some l) (n : Nat) :
    wireLevel r p b n = l := by
  simp [wireLevel, h]

/-- The wire at the next sample depends on the data pin, not on the clock pin or the trace. -/
@[simp] theorem State.ran_sdaWire (s : State) (p : Pin) (a : Level) (es : List Event) :
    (s.ran p s.sda a 0 es).sdaWire = s.sdaWire := by
  simp [State.sdaWire]

/-- The wire while the data pin is released is the environment's answer (R38). -/
theorem State.sdaWire_input (s : State) (hr : s.cfg.resolveSda.readsInput) (h : s.sda.mode = .inputPullup) :
    s.sdaWire = answerLevel (s.peerLowAt 0) := by
  have hs : s.sda = ⟨.inputPullup, s.sda.latch⟩ := by rw [← h]
  rw [State.sdaWire, hs]
  exact wireLevel_input hr _ _ _

@[simp] theorem readsInput_default : SdaResolve.default.readsInput := ⟨rfl, rfl⟩

/-- A micro-operation that is no `Dr`: the pins and one item in the trace (R37, R76, R101). -/
theorem State.perform_plain (s : State) {u : Uop} (h : u ≠ .dRead) :
    s.perform u = s.ran (sclAfter u s.scl) (sdaAfter u s.sda) s.uopAns 0 [⟨u, none⟩] := by
  simp [State.perform, State.actUop, h, State.ran, eventOf, State.logged, State.setScl, State.setSda]

/-- A `Dr`: the level of the data wire, whatever the pin's mode (R38, R40). -/
theorem State.perform_dRead (s : State) :
    s.perform .dRead =
      s.ran s.scl s.sda s.sdaWire 1 [⟨.dRead, some s.sdaWire⟩] := by
  simp [State.perform, State.actUop, State.sampleSda, State.ran, eventOf, State.logged, State.setUopAns,
    State.setPeers, State.setFresh]

/-- Every micro-operation leaves all but the pins, `UOP_ANS`, the environment's script and the trace as it was. -/
theorem State.perform_ran (s : State) (u : Uop) :
    ∃ ans n e, s.perform u = s.ran (sclAfter u s.scl) (sdaAfter u s.sda) ans n [e] ∧ e.op = u := by
  by_cases h : u = .dRead
  · subst h
    exact ⟨_, _, _, s.perform_dRead, rfl⟩
  · exact ⟨_, _, _, s.perform_plain h, rfl⟩

/-- A micro-operation puts its word on the port, after all the earlier ones (R70). -/
theorem State.perform_uopOutput (s : State) (u : Uop) : (s.perform u).uopOutput = s.uopOutput ++ [uopWord u] := by
  obtain ⟨ans, n, e, h, rfl⟩ := s.perform_ran u
  simp [h, State.uopOutput, State.trace]

/-- Writing a prefix of the buffer keeps its depth (R29). -/
@[simp] theorem overwritePrefix_length (bytes buf : List Byte) : (overwritePrefix bytes buf).length = buf.length := by
  simp [overwritePrefix]; omega

/-- Where the bytes fit, they are the first entries and the rest is as it was (R29, R153). -/
theorem overwritePrefix_eq {bytes buf : List Byte} (h : bytes.length ≤ buf.length) :
    overwritePrefix bytes buf = bytes ++ buf.drop bytes.length := by
  rw [overwritePrefix, List.take_of_length_le]
  simp; omega

/-- The word of a command loads exactly its operands, the unused ones zero (R72, R82). -/
theorem loadOperands_assemble (s : State) (op : BitVec 4) (a : PeerAddr) (n d : Byte) :
    s.loadOperands (CmdWord.assemble op 0#5 a n d) = s.setOperands a n d := by
  simp [State.loadOperands]

end Sys2Proof.Machine
end

