-- ==== Sys2Proof/Laws/Microcode.lean ====
section
/-! SUPPORT. What each subroutine does, once each: running programs in sequence, and the result, the pins and the trace of
every subroutine of R104 to R155 from the bus state it needs. -/

namespace Sys2Proof.Machine

open Sys2Proof

/-! ### Running programs -/

@[simp] theorem Prog.run_ret {α : Type} (a : α) (s : State) : (Prog.ret a).run s = (a, s) := rfl

/-- Two programs in sequence: the second runs on what the first leaves (R61). -/
@[simp] theorem Prog.run_bind {α β : Type} (p : Prog α) (f : α → Prog β) (s : State) :
    (p.bind f).run s = (f (p.run s).1).run (p.run s).2 := by
  induction p generalizing s with
  | ret a => rfl
  | issue u rest ih => exact ih _
  | sample rest ih => exact ih _ _

@[simp] theorem Prog.run_andThen {α β : Type} (p : Prog α) (q : Prog β) (s : State) :
    (p.andThen q).run s = q.run (p.run s).2 := p.run_bind _ s

/-- Plain micro-operations in order: the pins they make, and themselves in the trace. -/
theorem issueAll_run {us : List Uop} (h : ∀ u ∈ us, u ≠ .dRead) (s : State) :
    (issueAll us).run s =
      ((), s.ran (pinsAfter s.scl s.sda us).1 (pinsAfter s.scl s.sda us).2 s.uopAns 0 (plain us)) := by
  induction us generalizing s with
  | nil => simp [issueAll, pinsAfter, plain, State.ran_nil]
  | cons u us ih =>
    have hu := s.perform_plain (h u (by simp))
    have ih := ih (fun v hv => h v (by simp [hv])) (s.perform u)
    simp only [issueAll, List.foldr_cons] at ih ⊢
    rw [Prog.run, ih, hu]
    simp [pinsAfter, plain]

/-! ### The clock primitives, START and STOP -/

/-- R104. -/
@[simp] theorem raiseClock_run (s : State) :
    raiseClock.run s = ((), s.ran (s.scl.set .high) s.sda s.uopAns 0 (plain [.wLow, .c1, .wHigh])) := by
  simp [raiseClock, issueAll_run, pinsAfter, sclAfter, sdaAfter]

/-- R105. -/
@[simp] theorem lowerClock_run (s : State) :
    lowerClock.run s = ((), s.ran (s.scl.set .low) s.sda s.uopAns 0 (plain [.c0])) := by
  simp [lowerClock, issueAll_run, pinsAfter, sclAfter, sdaAfter]

/-- R106. -/
@[simp] theorem pulseClock_run (s : State) :
    pulseClock.run s = ((), s.ran (s.scl.set .low) s.sda s.uopAns 0 pulseEvents) := by
  simp [pulseClock, pulseEvents, plain, Pin.set]

/-- R107, whatever `resolve_sda` says: the answer is the level of the data wire, and it is in the trace. -/
theorem pulseClockSample_run_wire (s : State) :
    pulseClockSample.run s =
      (s.sdaWire, s.ran (s.scl.set .low) s.sda s.sdaWire 1 (samplePulseEvents s.sdaWire)) := by
  simp only [pulseClockSample, Prog.run_andThen, raiseClock_run, Prog.run, State.perform_dRead, State.ran_sda,
    State.ran_sdaWire]
  simp [samplePulseEvents, sampled, plain, Pin.set]

/-- R107, on the released data pin: the answer is the environment's (R38). -/
theorem pulseClockSample_run (s : State) (hr : s.cfg.resolveSda.readsInput) (h : s.sda.mode = .inputPullup) :
    pulseClockSample.run s =
      (answerLevel (s.peerLowAt 0),
        s.ran (s.scl.set .low) s.sda (answerLevel (s.peerLowAt 0)) 1
          (samplePulseEvents (answerLevel (s.peerLowAt 0)))) := by
  rw [pulseClockSample_run_wire, s.sdaWire_input hr h]

/-- R120: from any pins, the data pin low and then the clock pin low. -/
@[simp] theorem startSeq_run (s : State) :
    startSeq.run s = ((), s.ran (s.scl.set .low) (s.sda.set .low) s.uopAns 0 startEvents) := by
  simp [startSeq, issueAll_run, pinsAfter, sclAfter, sdaAfter, startEvents, plain]

/-- R121: the clock pin high and then the data pin high. -/
@[simp] theorem stopSeq_run (s : State) :
    stopSeq.run s = ((), s.ran (s.scl.set .high) (s.sda.set .high) s.uopAns 0 stopEvents) := by
  simp [stopSeq, issueAll_run, pinsAfter, sclAfter, sdaAfter, stopEvents, plain]

/-! ### The byte operations, from `Busy` -/

/-- `Busy` on one pin: `(OUTPUT, LOW)` (R41). -/
abbrev lowPin : Pin := ⟨.output, .low⟩

/-- `Idle` on one pin: `(OUTPUT, HIGH)` (R41). -/
abbrev highPin : Pin := ⟨.output, .high⟩

theorem sendBit_run (s : State) (b : Bool) :
    (sendBit b).run s = ((), s.ran (s.scl.set .low) (s.sda.set (levelOfBit b)) s.uopAns 0 (bitEvents b)) := by
  cases b <;>
    simp [sendBit, setSdaUop, levelOfBit, issueAll_run, pinsAfter, sclAfter, sdaAfter, bitEvents, plain]

/-- The data bits go out in the order given (R52, R130). -/
theorem sendBits_run (s : State) (b : Bool) (bs : List Bool) :
    (sendBits (b :: bs)).run s =
      ((), s.ran (s.scl.set .low) (s.sda.set (levelOfBit ((b :: bs).getLast (by simp)))) s.uopAns 0
        ((b :: bs).flatMap bitEvents)) := by
  induction bs generalizing s b with
  | nil => simp [sendBits, sendBit_run]
  | cons c cs ih =>
    rw [sendBits, Prog.run_andThen, sendBit_run, ih]
    simp [Pin.set]

/-- The sample of `WriteByte(v)`'s ninth pulse: the bit sent last is still on the latch of the input pin (R37, R130). -/
def State.ackSample (s : State) (v : Byte) : Level :=
  wireLevel s.cfg.resolveSda ⟨.inputPullup, levelOfBit (v.getLsbD 0)⟩ (s.peerLowAt 0) s.fresh

/-- R130, R133, whatever `resolve_sda` says: the pins are `Busy` on an acknowledge and `Idle`, after the stop, on a
refusal. -/
theorem writeByte_run_sample (s : State) (v : Byte) (hc : s.scl = lowPin) (hd : s.sda = lowPin) :
    (writeByte v).run s =
      (acknowledged (s.ackSample v),
        s.ran (if acknowledged (s.ackSample v) then lowPin else highPin)
          (if acknowledged (s.ackSample v) then lowPin else highPin) (s.ackSample v) 1
          (writeByteEvents v (s.ackSample v))) := by
  let t := s.ran lowPin ⟨.inputPullup, levelOfBit (v.getLsbD 0)⟩ s.uopAns 0
    ((bitsMsbFirst v).flatMap bitEvents ++ plain [.dIn, .wSettle])
  have ht : (issueAll [.dIn, .wSettle]).run ((sendBits (bitsMsbFirst v)).run s).2 = ((), t) := by
    simp only [bitsMsbFirst, List.map_cons, List.map_nil, sendBits_run]
    rw [issueAll_run (by simp)]
    simp [t, hc, hd, pinsAfter, sclAfter, sdaAfter, Pin.set, Pin.inPullup, bitsMsbFirst]
  have hw : t.sdaWire = s.ackSample v := by simp [t, State.sdaWire, State.ackSample]
  simp only [writeByte, Prog.run_andThen, Prog.run_bind, ht, pulseClockSample_run_wire, hw]
  cases h : s.ackSample v <;>
    simp [t, issueAll_run, acknowledged, pinsAfter, sclAfter, sdaAfter, Pin.set, Pin.out, writeByteEvents, bitsMsbFirst,
      bitEvents, plain]

theorem State.ackSample_eq (s : State) (hr : s.cfg.resolveSda.readsInput) (v : Byte) :
    s.ackSample v = answerLevel (s.peerLowAt 0) := wireLevel_input hr _ _ _

/-- R130, R133: the byte write on the environment's answer (R38). -/
theorem writeByte_run (s : State) (v : Byte) (hr : s.cfg.resolveSda.readsInput) (hc : s.scl = lowPin)
    (hd : s.sda = lowPin) :
    (writeByte v).run s =
      (s.peerLowAt 0,
        s.ran (if s.peerLowAt 0 then lowPin else highPin) (if s.peerLowAt 0 then lowPin else highPin)
          (answerLevel (s.peerLowAt 0)) 1 (writeByteEvents v (answerLevel (s.peerLowAt 0)))) := by
  rw [writeByte_run_sample s v hc hd, s.ackSample_eq hr, acknowledged_answerLevel]

/-- R140, whatever `resolve_sda` says: some `n` samples are shifted in, first sample highest (R79). -/
theorem receiveBits_run_some (n : Nat) (r : Byte) (s : State) (hc : s.scl = lowPin) :
    ∃ (bs : List Level) (ans : Level), bs.length = n ∧
      (receiveBits n r).run s =
        (bs.foldl shiftIn r, s.ran lowPin s.sda ans n (bs.flatMap samplePulseEvents)) := by
  induction n generalizing r s with
  | zero => exact ⟨[], s.uopAns, rfl, by simp [receiveBits, ← hc, State.ran_nil]⟩
  | succ n ih =>
    let t := s.ran lowPin s.sda s.sdaWire 1 (samplePulseEvents s.sdaWire)
    have ht : pulseClockSample.run s = (s.sdaWire, t) := by
      rw [pulseClockSample_run_wire, hc]; rfl
    obtain ⟨bs, ans, hl, ih⟩ := ih (shiftIn r s.sdaWire) t rfl
    refine ⟨s.sdaWire :: bs, ans, by simp [hl], ?_⟩
    rw [receiveBits, Prog.run_bind, ht, ih]
    simp [t, Nat.add_comm]

/-- R140: the samples still to come are shifted in, first sample highest (R79). -/
theorem receiveBits_run (n : Nat) (r : Byte) (s : State) (hr : s.cfg.resolveSda.readsInput)
    (hc : s.scl = lowPin) (hd : s.sda.mode = .inputPullup) :
    ∃ ans, (receiveBits n r).run s =
      ((s.answersAt 0 n).foldl shiftIn r,
        s.ran lowPin s.sda ans n ((s.answersAt 0 n).flatMap samplePulseEvents)) ∧
      (n = 0 → ans = s.uopAns) ∧ (∀ m, n = m + 1 → ans = answerLevel (s.peerLowAt m)) := by
  induction n generalizing r s with
  | zero => exact ⟨s.uopAns, by simp [receiveBits, State.answersAt, ← hc, State.ran_nil], by simp, by simp⟩
  | succ n ih =>
    have h := pulseClockSample_run s hr hd
    obtain ⟨ans, ih, hz, hs⟩ := ih (shiftIn r (answerLevel (s.peerLowAt 0))) (s.ran lowPin s.sda
      (answerLevel (s.peerLowAt 0)) 1 (samplePulseEvents (answerLevel (s.peerLowAt 0)))) hr rfl hd
    refine ⟨ans, ?_, by simp, ?_⟩
    · rw [receiveBits, Prog.run_bind, h, show s.scl.set .low = lowPin by rw [hc]; rfl, ih]
      have e : s.answersAt 0 (n + 1) = answerLevel (s.peerLowAt 0) ::
          (s.ran lowPin s.sda (answerLevel (s.peerLowAt 0)) 1
            (samplePulseEvents (answerLevel (s.peerLowAt 0)))).answersAt 0 n := by
        simp [State.answersAt, List.range_succ_eq_map, Nat.add_comm]
      simp [e, Nat.add_comm]
    · intro m hm
      cases n with
      | zero => simp [hz rfl, show m = 0 by omega]
      | succ n => rw [hs n rfl, show m = n + 1 by omega]; simp [Nat.add_comm]

/-- R79, R142: eight shifts make the byte of the eight samples. -/
theorem foldl_shiftIn_eight (b7 b6 b5 b4 b3 b2 b1 b0 : Bool) :
    [answerLevel b7, answerLevel b6, answerLevel b5, answerLevel b4, answerLevel b3, answerLevel b2, answerLevel b1,
      answerLevel b0].foldl shiftIn 0#8 = byteOfSamples (!b7) (!b6) (!b5) (!b4) (!b3) (!b2) (!b1) (!b0) := by
  revert b7 b6 b5 b4 b3 b2 b1 b0
  decide

/-- R140, R144: the byte of the next eight samples; the acknowledge is driven, whatever was read. -/
theorem readByte_run (s : State) (hr : s.cfg.resolveSda.readsInput) (hc : s.scl = lowPin) (hd : s.sda = lowPin) :
    readByte.run s =
      (s.byteAt 0, s.ran lowPin lowPin (answerLevel (s.peerLowAt 7)) 8 (readByteEvents (s.answersAt 0 8))) := by
  let t := s.ran lowPin ⟨.inputPullup, .low⟩ s.uopAns 0 (plain [.dIn, .wSettle])
  have h0 : (issueAll [.dIn, .wSettle]).run s = ((), t) := by
    rw [issueAll_run (by simp)]
    simp [t, pinsAfter, sclAfter, sdaAfter, hc, hd, Pin.inPullup]
  obtain ⟨ans, hr, -, ha⟩ := receiveBits_run 8 0#8 t hr rfl rfl
  have e : t.answersAt 0 8 = s.answersAt 0 8 := by simp [t, State.answersAt]
  have ha := ha 7 rfl
  have hb : (s.answersAt 0 8).foldl shiftIn 0#8 = s.byteAt 0 := foldl_shiftIn_eight _ _ _ _ _ _ _ _
  rw [readByte, Prog.run_andThen, h0, Prog.run_bind, hr, e, hb]
  simp [t, ha, issueAll_run, pinsAfter, sclAfter, sdaAfter, Pin.set, Pin.out, readByteEvents, plain]

/-- R140, R144, whatever `resolve_sda` says: a byte of some eight samples, acknowledged whatever was read. -/
theorem readByte_run_some (s : State) (hc : s.scl = lowPin) (hd : s.sda = lowPin) :
    ∃ (bs : List Level) (ans : Level), bs.length = 8 ∧
      readByte.run s = (bs.foldl shiftIn 0#8, s.ran lowPin lowPin ans 8 (readByteEvents bs)) := by
  let t := s.ran lowPin ⟨.inputPullup, .low⟩ s.uopAns 0 (plain [.dIn, .wSettle])
  have h0 : (issueAll [.dIn, .wSettle]).run s = ((), t) := by
    rw [issueAll_run (by simp)]
    simp [t, pinsAfter, sclAfter, sdaAfter, hc, hd, Pin.inPullup]
  obtain ⟨bs, ans, hl, hr⟩ := receiveBits_run_some 8 0#8 t rfl
  refine ⟨bs, ans, hl, ?_⟩
  rw [readByte, Prog.run_andThen, h0, Prog.run_bind, hr]
  simp [t, issueAll_run, pinsAfter, sclAfter, sdaAfter, Pin.set, Pin.out, readByteEvents, plain]

/-! ### The transactions -/

/-- R154, R160, R176, whatever `resolve_sda` says: all bytes acknowledged, or bytes up to a first refusal. -/
theorem writeBytes_run_cases (vs : List Byte) (s : State) (hc : s.scl = lowPin) (hd : s.sda = lowPin) :
    (∃ ans, (writeBytes vs).run s = (true, s.ran lowPin lowPin ans vs.length (ackedEvents vs))) ∨
    (∃ us w ws, vs = us ++ w :: ws ∧
      (writeBytes vs).run s =
        (false, s.ran highPin highPin .high (us.length + 1) (ackedEvents us ++ writeByteEvents w .high))) := by
  induction vs generalizing s with
  | nil =>
    have e := s.ran_nil
    rw [hc, hd] at e
    exact .inl ⟨s.uopAns, by simp [writeBytes, ackedEvents, e]⟩
  | cons v vs ih =>
    have hw := writeByte_run_sample s v hc hd
    cases h : s.ackSample v with
    | high =>
      refine .inr ⟨[], v, vs, rfl, ?_⟩
      rw [writeBytes, Prog.run_bind, hw]
      simp [h, acknowledged, ackedEvents]
    | low =>
      let t := s.ran lowPin lowPin .low 1 (writeByteEvents v .low)
      have ht : (writeByte v).run s = (true, t) := by rw [hw]; simp [h, acknowledged, t]
      rcases ih t rfl rfl with ⟨ans, ih⟩ | ⟨us, w, ws, rfl, ih⟩
      · refine .inl ⟨ans, ?_⟩
        rw [writeBytes, Prog.run_bind, ht]
        simp [ih, t, ackedEvents, Nat.add_comm]
      · refine .inr ⟨v :: us, w, ws, rfl, ?_⟩
        rw [writeBytes, Prog.run_bind, ht]
        simp [ih, t, ackedEvents, Nat.add_comm]

/-- R155, whatever `resolve_sda` says: `n` bytes, each of some eight samples. -/
theorem readBytes_run_some (n : Nat) (s : State) (hc : s.scl = lowPin) (hd : s.sda = lowPin) :
    ∃ (samples : List (List Level)) (ans : Level), samples.length = n ∧ (∀ bs ∈ samples, bs.length = 8) ∧
      (readBytes n).run s =
        (samples.map fun bs => bs.foldl shiftIn 0#8,
          s.ran lowPin lowPin ans (8 * n) (samples.flatMap readByteEvents)) := by
  induction n generalizing s with
  | zero =>
    have e := s.ran_nil
    rw [hc, hd] at e
    exact ⟨[], s.uopAns, rfl, by simp, by simp [readBytes, e]⟩
  | succ n ih =>
    obtain ⟨bs, ans, hl, hr⟩ := readByte_run_some s hc hd
    obtain ⟨samples, ans', hn, h8, ih⟩ := ih (s.ran lowPin lowPin ans 8 (readByteEvents bs)) rfl rfl
    refine ⟨bs :: samples, ans', by simp [hn], by simpa [hl] using h8, ?_⟩
    rw [readBytes, Prog.run_bind, hr, Prog.run_bind, ih]
    simp [Nat.mul_add, Nat.add_comm]

/-- Whether the next `n` samples are all acknowledges. -/
def State.allAcked (s : State) (n : Nat) : Prop := ∀ j < n, s.peerLowAt j = true

/-- R154: bytes all acknowledged leave the bus `Busy`. -/
theorem writeBytes_run_acked (vs : List Byte) (s : State) (hr : s.cfg.resolveSda.readsInput)
    (hc : s.scl = lowPin) (hd : s.sda = lowPin)
    (h : s.allAcked vs.length) :
    (writeBytes vs).run s =
      (true, s.ran lowPin lowPin (if vs = [] then s.uopAns else .low) vs.length (ackedEvents vs)) := by
  induction vs generalizing s with
  | nil =>
    have e := s.ran_nil
    rw [hc, hd] at e
    simp [writeBytes, ackedEvents, e]
  | cons v vs ih =>
    have h0 : s.peerLowAt 0 = true := h 0 (by simp)
    have ih := ih (s.ran lowPin lowPin .low 1 (writeByteEvents v .low)) hr rfl rfl
      (fun j hj => by simpa using h (1 + j) (by simp; omega))
    rw [writeBytes, Prog.run_bind, writeByte_run s v hr hc hd]
    simp [h0, ih, ackedEvents, Nat.add_comm]

/-- R154, R160, R176: the first refusal ends the data phase; later bytes are not sent and the bus is `Idle`. -/
theorem writeBytes_run_nack (vs : List Byte) (w : Byte) (ws : List Byte) (s : State)
    (hr : s.cfg.resolveSda.readsInput) (hc : s.scl = lowPin)
    (hd : s.sda = lowPin) (h : s.allAcked vs.length) (hn : s.peerLowAt vs.length = false) :
    (writeBytes (vs ++ w :: ws)).run s =
      (false, s.ran highPin highPin .high (vs.length + 1) (ackedEvents vs ++ writeByteEvents w .high)) := by
  induction vs generalizing s with
  | nil =>
    have h0 : s.peerLowAt 0 = false := hn
    rw [List.nil_append, writeBytes, Prog.run_bind, writeByte_run s w hr hc hd]
    simp [h0, ackedEvents]
  | cons v vs ih =>
    have h0 : s.peerLowAt 0 = true := h 0 (by simp)
    have ih := ih (s.ran lowPin lowPin .low 1 (writeByteEvents v .low)) hr rfl rfl
      (fun j hj => by simpa using h (1 + j) (by simp; omega)) (by simpa [Nat.add_comm] using hn)
    rw [List.cons_append, writeBytes, Prog.run_bind, writeByte_run s v hr hc hd]
    simp [h0, ih, ackedEvents, Nat.add_comm]

/-- R155: `n` bytes read in order, the bus left `Busy`. -/
theorem readBytes_run (n : Nat) (s : State) (hr : s.cfg.resolveSda.readsInput) (hc : s.scl = lowPin) (hd : s.sda = lowPin) :
    (readBytes n).run s =
      (s.bytesAt 0 n,
        s.ran lowPin lowPin (if n = 0 then s.uopAns else answerLevel (s.peerLowAt (8 * n - 1))) (8 * n)
          (s.readEvents 0 n)) := by
  induction n generalizing s with
  | zero =>
    have e := s.ran_nil
    rw [hc, hd] at e
    simp [readBytes, State.bytesAt, State.readEvents, e]
  | succ n ih =>
    let t := s.ran lowPin lowPin (answerLevel (s.peerLowAt 7)) 8 (readByteEvents (s.answersAt 0 8))
    have ht : readByte.run s = (s.byteAt 0, t) := readByte_run s hr hc hd
    have hb : s.bytesAt 0 (n + 1) = s.byteAt 0 :: t.bytesAt 0 n := by
      simp [t, State.bytesAt, State.byteAt, List.range_succ_eq_map, Nat.mul_add, Nat.add_comm, Nat.add_left_comm]
    have he : s.readEvents 0 (n + 1) = readByteEvents (s.answersAt 0 8) ++ t.readEvents 0 n := by
      simp [t, State.readEvents, State.answersAt, List.range_succ_eq_map, List.flatMap_map, Nat.mul_add, Nat.add_comm,
        Nat.add_left_comm]
    rw [readBytes, Prog.run_bind, ht, Prog.run_bind, ih t hr rfl rfl, hb, he]
    rcases n with _ | n
    · simp [t]
    · have e1 : 8 + (8 * (n + 1) - 1) = 8 * (n + 1 + 1) - 1 := by omega
      have e2 : 8 + 8 * (n + 1) = 8 * (n + 1 + 1) := by omega
      simp only [t, Nat.add_one_ne_zero, if_false, Prog.run_ret, State.ran_ran, State.ran_peerLowAt, e1, e2]

/-- R154, R162: every byte acknowledged, then the transaction's own stop. -/
theorem writeTxn_run_acked (a : PeerAddr) (bytes : List Byte) (s : State) (hr : s.cfg.resolveSda.readsInput)
    (hc : s.scl = highPin) (hd : s.sda = highPin)
    (h : s.allAcked (bytes.length + 1)) :
    (writeTxn a bytes).run s =
      (true, s.ran highPin highPin .low (bytes.length + 1)
        (startEvents ++ ackedEvents (addressByte a .write :: bytes) ++ stopEvents)) := by
  let t := s.ran lowPin lowPin s.uopAns 0 startEvents
  have ht : startSeq.run s = ((), t) := by simp [t, hc, hd, Pin.set]
  have hw := writeBytes_run_acked (addressByte a .write :: bytes) t hr rfl rfl
    (fun j hj => by simpa [t] using h j (by simpa using hj))
  rw [writeTxn, Prog.run_andThen, ht, Prog.run_bind, hw]
  simp [t, Pin.set]

/-- R154, R160, R162: the first refusal ends the transaction with the stop inside the byte write, and no other. -/
theorem writeTxn_run_nack (a : PeerAddr) (bytes vs : List Byte) (w : Byte) (ws : List Byte) (s : State)
    (hb : addressByte a .write :: bytes = vs ++ w :: ws) (hr : s.cfg.resolveSda.readsInput)
    (hc : s.scl = highPin) (hd : s.sda = highPin)
    (h : s.allAcked vs.length) (hn : s.peerLowAt vs.length = false) :
    (writeTxn a bytes).run s =
      (false, s.ran highPin highPin .high (vs.length + 1)
        (startEvents ++ ackedEvents vs ++ writeByteEvents w .high)) := by
  let t := s.ran lowPin lowPin s.uopAns 0 startEvents
  have ht : startSeq.run s = ((), t) := by simp [t, hc, hd, Pin.set]
  have hw := writeBytes_run_nack vs w ws t hr rfl rfl (fun j hj => by simpa [t] using h j hj) (by simpa [t] using hn)
  rw [writeTxn, Prog.run_andThen, ht, Prog.run_bind, hb, hw]
  simp [t]

/-- R155: the address byte acknowledged, `n` bytes read, the stop. -/
theorem readTxn_run_acked (a : PeerAddr) (n : Nat) (s : State) (hr : s.cfg.resolveSda.readsInput)
    (hc : s.scl = highPin) (hd : s.sda = highPin)
    (h : s.peerLowAt 0 = true) :
    (readTxn a n).run s =
      (some (s.bytesAt 1 n),
        s.ran highPin highPin (if n = 0 then .low else answerLevel (s.peerLowAt (8 * n))) (1 + 8 * n)
          (startEvents ++ writeByteEvents (addressByte a .read) .low ++ s.readEvents 1 n ++ stopEvents)) := by
  let t := s.ran lowPin lowPin s.uopAns 0 startEvents
  have ht : startSeq.run s = ((), t) := by simp [t, hc, hd, Pin.set]
  let u := s.ran lowPin lowPin .low 1 (startEvents ++ writeByteEvents (addressByte a .read) .low)
  have hw : (writeByte (addressByte a .read)).run t = (true, u) := by
    rw [writeByte_run t _ hr rfl rfl]
    simp [t, u, h]
  have hb : u.bytesAt 0 n = s.bytesAt 1 n := by
    simp [u, State.bytesAt, State.byteAt, Nat.add_assoc]
  have he : u.readEvents 0 n = s.readEvents 1 n := by
    simp [u, State.readEvents, State.answersAt, Nat.add_assoc]
  have hr := readBytes_run n u hr rfl rfl
  rw [hb, he] at hr
  rw [readTxn, Prog.run_andThen, ht, Prog.run_bind, hw]
  simp only [if_true, Prog.run_bind, Prog.run_andThen, hr]
  rcases n with _ | n
  · simp [u, Pin.set]
  · simp [u, Pin.set, show 1 + (8 * (n + 1) - 1) = 8 * (n + 1) by omega]

/-- R155, R160: the address byte refused; no byte is read. -/
theorem readTxn_run_nack (a : PeerAddr) (n : Nat) (s : State) (hr : s.cfg.resolveSda.readsInput)
    (hc : s.scl = highPin) (hd : s.sda = highPin)
    (h : s.peerLowAt 0 = false) :
    (readTxn a n).run s =
      (none, s.ran highPin highPin .high 1 (startEvents ++ writeByteEvents (addressByte a .read) .high)) := by
  let t := s.ran lowPin lowPin s.uopAns 0 startEvents
  have ht : startSeq.run s = ((), t) := by simp [t, hc, hd, Pin.set]
  rw [readTxn, Prog.run_andThen, ht, Prog.run_bind, writeByte_run t _ hr rfl rfl]
  simp [t, h]

/-! ### Commands -/

/-- The pins in `Idle` (R41). -/
theorem busState_idle_iff (s : State) : s.busState = .idle ↔ s.scl = highPin ∧ s.sda = highPin := by
  unfold State.busState busStateOf
  split
  · simp_all
  · split <;> simp_all

/-- The pins in `Busy` (R41). -/
theorem busState_busy_iff (s : State) : s.busState = .busy ↔ s.scl = lowPin ∧ s.sda = lowPin := by
  unfold State.busState busStateOf
  split
  · simp_all
  · split <;> simp_all

/-- A command presented to a ready block within its contract runs its program (R72). -/
theorem runCommand_next (s : State) (i : Instr) (body : State → Prog (State → State)) (hr : s.seq = .ready)
    (ho : s.objection i = none) :
    s.runCommand i body =
      .next (((body (s.loadOperands (commandWord i))).run (s.loadOperands (commandWord i))).1
        ((body (s.loadOperands (commandWord i))).run (s.loadOperands (commandWord i))).2) := by
  simp [State.runCommand, State.busy, hr, ho]

/-- The environment raises no objection just where both premises hold (R200, R207). -/
theorem environmentObjection_none_iff (s : State) :
    s.environmentObjection = none ↔ s.wellBehaved = true ∧ s.restAtLaunch = true := by
  unfold State.environmentObjection
  cases s.wellBehaved <;> cases s.restAtLaunch <;> simp

/-- No objection: the operands in range, the premises on the environment, the bus in the state needed (R90, R200, R201,
R207). -/
theorem objection_none {s : State} {i : Instr} {b : BusState} (hb : neededBusState i = some b)
    (hw : i.wellFormed s.cfg.bufDepth = true) (he : s.wellBehaved = true)
    (hl : s.restAtLaunch = true) (hs : s.busState = b) : s.objection i = none := by
  simp [State.objection, (environmentObjection_none_iff s).2 ⟨he, hl⟩, hb, hw, hs]

end Sys2Proof.Machine
end

