-- ==== Sys2Proof/Laws/PerInstr.lean ====
section
/-! SUPPORT. Statements about every instruction as syntax, one lemma per constructor. -/

namespace Sys2Proof.Laws.RowWord

open Sys2Proof

/-- The `mask` and `match` of a command's row (R74); for a micro-operation, its `UOP` code (R76). -/
def row : Instr → (BitVec 32 × BitVec 32) ⊕ BitVec 5
  | .start => .inl (0xFFFFFFFF#32, 0x10000000#32)
  | .stop => .inl (0xFFFFFFFF#32, 0x20000000#32)
  | .wrb _ => .inl (0xFFFFFF00#32, 0x30000000#32)
  | .rdb => .inl (0xFFFFFFFF#32, 0x40000000#32)
  | .wrt _ _ => .inl (0xFF8000FF#32, 0x50000000#32)
  | .rd1 _ => .inl (0xFF80FFFF#32, 0x60000000#32)
  | .rd2 _ => .inl (0xFF80FFFF#32, 0x70000000#32)
  | .rdn _ _ => .inl (0xFF8000FF#32, 0x80000000#32)
  | .c0 => .inr 0x00#5
  | .c1 => .inr 0x01#5
  | .cOut => .inr 0x02#5
  | .d0 => .inr 0x08#5
  | .d1 => .inr 0x09#5
  | .dOut => .inr 0x0A#5
  | .dIn => .inr 0x0B#5
  | .dRead => .inr 0x0C#5
  | .wStart => .inr 0x10#5
  | .wStop => .inr 0x11#5
  | .wLow => .inr 0x12#5
  | .wHigh => .inr 0x13#5
  | .wSettle => .inr 0x14#5

/-- The encoded word of an instruction selects its own row: `w & mask = match` on the command port (R74), the row's code on
the Pin Driver port (R76). -/
def Statement (i : Instr) : Prop :=
  match encode i, row i with
  | .cmd w, .inl (mask, pattern) => w &&& mask = pattern
  | .uop w, .inr code => w = code
  | .cmd _, .inr _ => False
  | .uop _, .inl _ => False

theorem start : Statement .start := rfl
theorem stop : Statement .stop := rfl
theorem wrb (d : Byte) : Statement (.wrb d) := masked_data 0x3#4 d
theorem rdb : Statement .rdb := rfl
theorem wrt (a : PeerAddr) (n : Byte) : Statement (.wrt a n) := masked_addr_len 0x5#4 a n
theorem rd1 (a : PeerAddr) : Statement (.rd1 a) := masked_addr 0x6#4 a
theorem rd2 (a : PeerAddr) : Statement (.rd2 a) := masked_addr 0x7#4 a
theorem rdn (a : PeerAddr) (n : Byte) : Statement (.rdn a n) := masked_addr_len 0x8#4 a n
theorem c0 : Statement .c0 := rfl
theorem c1 : Statement .c1 := rfl
theorem cOut : Statement .cOut := rfl
theorem d0 : Statement .d0 := rfl
theorem d1 : Statement .d1 := rfl
theorem dOut : Statement .dOut := rfl
theorem dIn : Statement .dIn := rfl
theorem dRead : Statement .dRead := rfl
theorem wStart : Statement .wStart := rfl
theorem wStop : Statement .wStop := rfl
theorem wLow : Statement .wLow := rfl
theorem wHigh : Statement .wHigh := rfl
theorem wSettle : Statement .wSettle := rfl

end Sys2Proof.Laws.RowWord
end

