-- ==== Sys2Proof/Tests/Slice0.lean ====
section
/-! SUPPORT. Tests: words and values from 30_encoding.md and 95_test_vectors.md; and, for each statement with hypotheses, a
witness that meets them (`witness_<the statement's name>`). -/

set_option maxRecDepth 20000

namespace Sys2Proof.Tests

open Sys2Proof Sys2Proof.Machine

/-! ### Well-formedness (R90) -/

theorem test_wellFormed_refuses_wrt_longer_than_the_buffer : (Instr.wrt 0x50 5).wellFormed 4 = false := by decide
theorem test_wellFormed_refuses_rdn_of_no_bytes : (Instr.rdn 0x68 0).wellFormed 4 = false := by decide
theorem test_wellFormed_refuses_rdn_longer_than_the_buffer : (Instr.rdn 0x68 5).wellFormed 4 = false := by decide
theorem test_wellFormed_takes_the_boundaries :
    (Instr.wrt 0x50 0).wellFormed 4 = true ∧ (Instr.wrt 0x50 4).wellFormed 4 = true ∧
      (Instr.rdn 0x68 1).wellFormed 4 = true ∧ (Instr.rdn 0x68 4).wellFormed 4 = true := by decide
theorem test_configuration_refuses_one_pin_for_both_wires : ¬ ({ Config.default with pinSda := 0 } : Config).wf := by decide
theorem test_configuration_refuses_a_depth_out_of_range :
    ¬ ({ Config.default with bufDepth := 0 } : Config).wf ∧ ¬ ({ Config.default with bufDepth := 256 } : Config).wf := by
  decide
theorem test_configuration_takes_the_default : Config.default.wf := by decide
/-- R38 fixes the input mode. -/
theorem test_configuration_refuses_an_input_that_does_not_read_the_peers :
    ¬ ({ Config.default with resolveSda := { SdaResolve.default with inputLow := ⟨some .low, some .low⟩ } } : Config).wf := by
  decide

/-! ### Decoding: words written out field by field, `{OP, ZERO, ADDR, LEN, DATA}` (R71), `{CLS, SEL}` (R75) -/

theorem test_decode_start : decodeTableWord 32 0b0001_00000_0000000_00000000_00000000 = some .start := by decide
theorem test_decode_stop : decodeTableWord 32 0b0010_00000_0000000_00000000_00000000 = some .stop := by decide
theorem test_decode_wrb : decodeTableWord 32 0b0011_00000_0000000_00000000_10100000 = some (.wrb 0xA0) := by decide
theorem test_decode_rdb : decodeTableWord 32 0b0100_00000_0000000_00000000_00000000 = some .rdb := by decide
theorem test_decode_wrt : decodeTableWord 32 0b0101_00000_1010000_00000010_00000000 = some (.wrt 0x50 2) := by decide
theorem test_decode_rd1 : decodeTableWord 32 0b0110_00000_1101000_00000000_00000000 = some (.rd1 0x68) := by decide
theorem test_decode_rd2 : decodeTableWord 32 0b0111_00000_1001000_00000000_00000000 = some (.rd2 0x48) := by decide
theorem test_decode_rdn : decodeTableWord 32 0b1000_00000_1101000_00000110_00000000 = some (.rdn 0x68 6) := by decide
theorem test_decode_clock_pin :
    decodeTableWord 5 0b00_000 = some .c0 ∧ decodeTableWord 5 0b00_001 = some .c1 ∧
      decodeTableWord 5 0b00_010 = some .cOut := by decide
theorem test_decode_data_pin :
    decodeTableWord 5 0b01_000 = some .d0 ∧ decodeTableWord 5 0b01_001 = some .d1 ∧
      decodeTableWord 5 0b01_010 = some .dOut ∧ decodeTableWord 5 0b01_011 = some .dIn ∧
      decodeTableWord 5 0b01_100 = some .dRead := by decide
theorem test_decode_waits :
    decodeTableWord 5 0b10_000 = some .wStart ∧ decodeTableWord 5 0b10_001 = some .wStop ∧
      decodeTableWord 5 0b10_010 = some .wLow ∧ decodeTableWord 5 0b10_011 = some .wHigh ∧
      decodeTableWord 5 0b10_100 = some .wSettle := by decide
/-- The corner words of 95_test_vectors.md section 8. -/
theorem test_decode_corner_words :
    decodeTableWord 32 0x507F0000 = some (.wrt 0x7F 0) ∧ decodeTableWord 32 0x5000FF00 = some (.wrt 0 255) ∧
      decodeTableWord 32 0x8068FF00 = some (.rdn 0x68 255) ∧ decodeTableWord 32 0x30000000 = some (.wrb 0) := by decide
/-- The refused words of 95_test_vectors.md section 8, each with its reason. -/
theorem test_decode_refuses_reserved_words :
    decodeCmd 255 0x00000000 = .error .reservedOp ∧ decodeCmd 255 0x90000000 = .error .reservedOp ∧
      decodeCmd 255 0xFFFFFFFF = .error .reservedOp ∧ decodeCmd 255 0x50D00200 = .error .zeroField ∧
      decodeCmd 255 0x58500200 = .error .zeroField ∧ decodeCmd 255 0x10000001 = .error .unusedField ∧
      decodeCmd 255 0x20010000 = .error .unusedField ∧ decodeCmd 255 0x300001A0 = .error .unusedField ∧
      decodeCmd 255 0x400000FF = .error .unusedField ∧ decodeCmd 255 0x50500201 = .error .unusedField ∧
      decodeCmd 255 0x60680100 = .error .unusedField := by decide
theorem test_decode_refuses_lengths_out_of_range :
    decodeCmd 255 0x80680000 = .error .lenZero ∧ decodeCmd 16 0x5000FF00 = .error .lenAboveDepth ∧
      decodeCmd 16 0x8068FF00 = .error .lenAboveDepth := by decide
theorem test_decode_refuses_micro_operations_never_issued :
    decodeUop 0x03 = .error .uopUnissued ∧ decodeUop 0x04 = .error .uopUnissued ∧ decodeUop 0x05 = .error .uopReserved ∧
      decodeUop 0x0D = .error .uopReserved ∧ decodeUop 0x15 = .error .uopReserved ∧
      decodeUop 0x1F = .error .uopReserved := by decide

/-! ### Small states -/

/-- The timed configuration of vector T7, with a buffer of four. -/
def cfg4 : Config :=
  { Config.default with tStartHold := 5, tStopHold := 4, tClkLowHold := 5, tClkHighHold := 4, tInputSettle := 2, bufDepth := 4 }

/-- `Idle`, with a buffer of four, and the environment answering 0 where `peers` is true. -/
def idleState (peers : List Bool) : State :=
  { State.resetWith cfg4 with buf := [0x01, 0x02, 0xEE, 0xEE], peers := peers }

/-- `Busy`. -/
def busyState (peers : List Bool) : State :=
  { idleState peers with scl := ⟨.output, .low⟩, sda := ⟨.output, .low⟩ }

/-- A platform whose high pad gives way to a peer: no contention (R206, D19). -/
def yieldingPad : SdaResolve := { SdaResolve.default with outputHigh := ⟨some .high, some .low⟩ }

/-- A `START` after its first micro-operation. -/
def startingState : State :=
  { idleState [] with sda := ⟨.output, .low⟩, seq := .run .start 1 [] }

/-- The environment's answers to the samples of bytes: 0 is a wire pulled low. -/
def answering (bits : List Nat) : List Bool := bits.map (· == 0)

/-- What a test looks at after a step that answers a next state. -/
def after {α : Type} (o : Host.Outcome State Fault Refusal) (look : State → α) : Option α :=
  match o with
  | .next t => some (look t)
  | .fault _ => none
  | .refused _ => none

/-- The flag, the bus state and the number of items added to the trace. -/
def summary (s : State) (t : State) : Bool × BusState × Nat := (t.ackf, t.busState, (s.newEvents t).length)

/-! ### One step of each instruction, from 95_test_vectors.md -/

/-- SS1. -/
theorem test_start_from_reset :
    after (step (State.reset.withFetchWord 32 0x10000000)) (fun t => (uopsOf (t.log.take 3), t.busState)) =
      some ([.c0, .wStart, .d0], .busy) := by rfl
/-- SS2. -/
theorem test_stop_from_busy :
    after (step ((busyState []).withFetchWord 32 0x20000000)) (fun t => (uopsOf (t.log.take 5), t.busState)) =
      some ([.d1, .wStop, .wHigh, .c1, .wLow], .idle) := by rfl
/-- SS5. -/
theorem test_stop_in_idle_is_refused :
    step ((idleState []).withFetchWord 32 0x20000000) = .refused (.outOfContract .busy) := by rfl
/-- W1. -/
theorem test_wrb_acknowledged :
    after (step ((busyState [true]).withFetchWord 32 0x300000A0)) (summary (busyState [])) =
      some (true, .busy, 49) := by rfl
/-- W1, the data levels sent. -/
theorem test_wrb_levels_sent :
    after (exec (.wrb 0xA0) (busyState [true]))
        (fun t => (levelsAtRise ⟨.output, .low⟩ (uopsOf ((busyState []).newEvents t))).take 8) =
      some [.high, .low, .high, .low, .low, .low, .low, .low] := by rfl
/-- W3. -/
theorem test_wrb_not_acknowledged :
    after (step ((busyState [false]).withFetchWord 32 0x300000FF)) (summary (busyState [])) =
      some (false, .idle, 54) := by rfl
/-- R1. -/
theorem test_rdb :
    after (step ((busyState (answering [1, 0, 1, 0, 0, 1, 0, 1])).withFetchWord 32 0x40000000))
        (fun t => (t.rdata, summary (busyState []) t)) = some (0xA5, false, .busy, 48) := by rfl
/-- R4, R5, R6: the first sample lands in bit 7. -/
theorem test_rdb_bit_order :
    after (exec .rdb (busyState (answering [1, 0, 0, 0, 0, 0, 0, 0]))) State.rdata = some 0x80 ∧
      after (exec .rdb (busyState (answering [0, 0, 1, 1, 1, 1, 0, 0]))) State.rdata = some 0x3C := ⟨rfl, rfl⟩
/-- X1. -/
theorem test_wrt_all_acknowledged :
    after (step ((idleState [true, true, true]).withFetchWord 32 0x50500200)) (summary (idleState [])) =
      some (true, .idle, 155) := by rfl
/-- X4. -/
theorem test_wrt_refused_at_the_first_data_byte :
    after (step ((idleState [true, false]).withFetchWord 32 0x50500200)) (summary (idleState [])) =
      some (false, .idle, 106) := by rfl
/-- X6. -/
theorem test_rd1 :
    after (step ((idleState (answering [0, 0, 1, 1, 1, 0, 1, 0, 1])).withFetchWord 32 0x60680000))
        (fun t => (t.rdata, summary (idleState []) t)) = some (0x75, true, .idle, 105) := by rfl
/-- X9: nothing is said of `RDATA`. -/
theorem test_rd1_refused :
    after (step ((idleState [false]).withFetchWord 32 0x60680000)) (summary (idleState [])) =
      some (false, .idle, 57) := by rfl
/-- X7. -/
theorem test_rd2 :
    after (step ((idleState (answering [0, 0, 0, 0, 1, 0, 0, 1, 0, 0, 0, 1, 1, 0, 1, 0, 0])).withFetchWord 32 0x70480000))
        (fun t => (t.rword, summary (idleState []) t)) = some (0x1234, true, .idle, 153) := by rfl
/-- As X8 for two bytes: the later entries stay. -/
theorem test_rdn :
    after (step ((idleState (answering [0, 0, 0, 0, 0, 0, 0, 1, 1, 0, 0, 0, 0, 0, 1, 0, 0])).withFetchWord 32 0x80680200))
        (fun t => (t.buf, summary (idleState []) t)) = some ([0x03, 0x04, 0xEE, 0xEE], true, .idle, 153) := by rfl
/-- Vector T7's bounds. -/
theorem test_durations :
    after (exec .stop (busyState [])) (fun t => minDuration cfg4 (uopsOf ((busyState []).newEvents t))) = some 13 ∧
      after (exec (.wrb 0xA0) (busyState [false])) (fun t => minDuration cfg4 (uopsOf ((busyState []).newEvents t))) =
        some 96 ∧
      after (exec (.wrt 0x50 2) (idleState [true, true, true]))
        (fun t => minDuration cfg4 (uopsOf ((idleState []).newEvents t))) = some 267 := ⟨rfl, rfl, rfl⟩
theorem test_clock_pin_words :
    after (step ((idleState []).withFetchWord 8 0x00)) State.scl = some ⟨.output, .low⟩ ∧
      after (step ((busyState []).withFetchWord 8 0x01)) State.scl = some ⟨.output, .high⟩ ∧
      after (step ({ idleState [] with scl := ⟨.inputPullup, .low⟩ }.withFetchWord 8 0x02)) State.scl =
        some ⟨.output, .low⟩ := ⟨rfl, rfl, rfl⟩
theorem test_data_pin_words :
    after (step ((idleState []).withFetchWord 8 0x08)) State.sda = some ⟨.output, .low⟩ ∧
      after (step ((busyState []).withFetchWord 8 0x09)) State.sda = some ⟨.output, .high⟩ ∧
      after (step ({ idleState [] with sda := ⟨.inputPullup, .low⟩ }.withFetchWord 8 0x0A)) State.sda =
        some ⟨.output, .low⟩ ∧
      after (step ((idleState []).withFetchWord 8 0x0B)) State.sda = some ⟨.inputPullup, .high⟩ := ⟨rfl, rfl, rfl, rfl⟩
theorem test_sample_word :
    after (step ({ idleState [true] with sda := ⟨.inputPullup, .low⟩ }.withFetchWord 8 0x0C)) State.uopAns = some .low ∧
      after (step ({ idleState [false] with sda := ⟨.inputPullup, .low⟩ }.withFetchWord 8 0x0C)) State.uopAns =
        some .high := ⟨rfl, rfl⟩
/-- R40, R206: a sample of a driven high pin while a peer pulls is the pad's level where the platform states one. -/
theorem test_sample_word_on_a_yielding_pad :
    after (step ({ idleState [true] with cfg := { cfg4 with resolveSda := yieldingPad } }.withFetchWord 8 0x0C))
      State.uopAns = some .low := by rfl
/-- R175: a word offered to the Pin Driver while a command runs. -/
theorem test_word_offered_while_a_command_runs_is_refused :
    step { startingState with uopPort := some 0x09 } = .refused .secondWriter := by rfl
/-- The `UOP` bytes of vector W1, in full, after the four of reset (Z1). -/
theorem test_uop_words_of_wrb :
    after (exec (.wrb 0xA0) (busyState [true])) State.uopOutput =
      some ([0x01, 0x02, 0x09, 0x0A] ++ [0x09, 0x12, 0x01, 0x13, 0x00, 0x08, 0x12, 0x01, 0x13, 0x00, 0x09, 0x12, 0x01, 0x13,
        0x00, 0x08, 0x12, 0x01, 0x13, 0x00] ++ [0x08, 0x12, 0x01, 0x13, 0x00, 0x08, 0x12, 0x01, 0x13, 0x00, 0x08, 0x12,
        0x01, 0x13, 0x00, 0x08, 0x12, 0x01, 0x13, 0x00] ++ [0x0B, 0x14, 0x12, 0x01, 0x13, 0x0C, 0x00, 0x08, 0x0A]) := by rfl
theorem test_wait_words :
    after (step ((busyState []).withFetchWord 8 0x10)) (fun t => t.log.head?) = some (some ⟨.wStart, none⟩) ∧
      after (step ((busyState []).withFetchWord 8 0x11)) (fun t => t.log.head?) = some (some ⟨.wStop, none⟩) ∧
      after (step ((busyState []).withFetchWord 8 0x12)) (fun t => t.log.head?) = some (some ⟨.wLow, none⟩) ∧
      after (step ((busyState []).withFetchWord 8 0x13)) (fun t => t.log.head?) = some (some ⟨.wHigh, none⟩) ∧
      after (step ((busyState []).withFetchWord 8 0x14)) (fun t => t.log.head?) = some (some ⟨.wSettle, none⟩) :=
  ⟨rfl, rfl, rfl, rfl, rfl⟩

/-! ### Witnesses: encoding -/

theorem witness_DecodeOfEncodeIsTheInstruction :
    (Instr.wrt 0x50 0).wellFormed 4 = true ∧ (Instr.wrt 0x50 4).wellFormed 4 = true ∧
      (Instr.rdn 0x68 1).wellFormed 4 = true ∧ (Instr.rdn 0x68 4).wellFormed 4 = true ∧
      (Instr.wrb 0xFF).wellFormed 4 = true ∧ Instr.dRead.wellFormed 4 = true := by decide
theorem witness_DecodedWordIsItsEncoding :
    decode 4 (.cmd 0x507F0400) = .ok (.wrt 0x7F 4) ∧ decode 4 (.uop 0x14) = .ok .wSettle := by decide
theorem witness_CommandRowsByMatchAndMask :
    (0x10000000#32 &&& 0xFFFFFFFF#32 = 0x10000000#32) ∧ (0x20000000#32 &&& 0xFFFFFFFF#32 = 0x20000000#32) ∧
      (0x300000FF#32 &&& 0xFFFFFF00#32 = 0x30000000#32) ∧ (0x40000000#32 &&& 0xFFFFFFFF#32 = 0x40000000#32) ∧
      (0x507FFF00#32 &&& 0xFF8000FF#32 = 0x50000000#32) ∧ (0x607F0000#32 &&& 0xFF80FFFF#32 = 0x60000000#32) ∧
      (0x707F0000#32 &&& 0xFF80FFFF#32 = 0x70000000#32) ∧ (0x807FFF00#32 &&& 0xFF8000FF#32 = 0x80000000#32) := by decide
theorem witness_CommandRowsByMatchAndMask_no_row :
    (0x90000000#32 &&& 0xFFFFFFFF#32 ≠ 0x10000000#32) ∧ (0x90000000#32 &&& 0xFFFFFFFF#32 ≠ 0x20000000#32) ∧
      (0x90000000#32 &&& 0xFFFFFF00#32 ≠ 0x30000000#32) ∧ (0x90000000#32 &&& 0xFFFFFFFF#32 ≠ 0x40000000#32) ∧
      (0x90000000#32 &&& 0xFF8000FF#32 ≠ 0x50000000#32) ∧ (0x90000000#32 &&& 0xFF80FFFF#32 ≠ 0x60000000#32) ∧
      (0x90000000#32 &&& 0xFF80FFFF#32 ≠ 0x70000000#32) ∧ (0x90000000#32 &&& 0xFF8000FF#32 ≠ 0x80000000#32) := by decide

/-- The state the next two theorems are about: a ready block that is presented the word `w`. -/
def presented (w : CmdWord) : State := { idleState [] with host := [.command w] }

theorem witness_ReservedCommandWordsAreRefused :
    (presented 0).uopPort = none ∧ (presented 0).seq = .ready ∧
      (presented 0).host = .command 0x00000000#32 :: [] := ⟨rfl, rfl, rfl⟩
/-- A word at the boundary of each reserved range. -/
theorem witness_ReservedCommandWordsAreRefused_each_clause :
    (0x00000000#32).extractLsb' 28 4 = 0x0#4 ∧ 0x9 ≤ ((0x90000000#32).extractLsb' 28 4).toNat ∧
      0x9 ≤ ((0xF0000000#32).extractLsb' 28 4).toNat ∧ (0x50D00200#32).extractLsb' 23 5 ≠ 0#5 ∧
      (0x58500200#32).extractLsb' 23 5 ≠ 0#5 ∧
      ((0x10000001#32).extractLsb' 28 4 = 0x1#4 ∧ (0x10000001#32).extractLsb' 0 28 ≠ 0#28) ∧
      ((0x20010000#32).extractLsb' 28 4 = 0x2#4 ∧ (0x20010000#32).extractLsb' 0 28 ≠ 0#28) ∧
      ((0x48000000#32).extractLsb' 28 4 = 0x4#4 ∧ (0x48000000#32).extractLsb' 0 28 ≠ 0#28) ∧
      ((0x300001A0#32).extractLsb' 28 4 = 0x3#4 ∧ (0x300001A0#32).extractLsb' 8 20 ≠ 0#20) ∧
      ((0x60680100#32).extractLsb' 28 4 = 0x6#4 ∧ (0x60680100#32).extractLsb' 0 16 ≠ 0#16) ∧
      ((0x70008000#32).extractLsb' 28 4 = 0x7#4 ∧ (0x70008000#32).extractLsb' 0 16 ≠ 0#16) ∧
      ((0x50500201#32).extractLsb' 28 4 = 0x5#4 ∧ (0x50500201#32).extractLsb' 0 8 ≠ 0#8) ∧
      ((0x80680680#32).extractLsb' 28 4 = 0x8#4 ∧ (0x80680680#32).extractLsb' 0 8 ≠ 0#8) := by decide
theorem witness_AddressByteIsShiftedAddressWithDirection : (0 < 7) ∧ (6 < 7) := by decide

/-! ### Witnesses: the step -/

theorem witness_StepRunsThePresentedCommand :
    (presented 0x50500400).uopPort = none ∧ (presented 0x50500400).seq = .ready ∧
      (presented 0x50500400).host = .command 0x50500400#32 :: [] ∧
      decode (presented 0x50500400).cfg.bufDepth (.cmd 0x50500400#32) = .ok (.wrt 0x50 4) := ⟨rfl, rfl, rfl, by decide⟩
theorem witness_StepRunsTheMicroOperationWord :
    { idleState [] with uopPort := some 0x14 }.uopPort = some 0x14#5 ∧
      decode (idleState []).cfg.bufDepth (.uop 0x14#5) = .ok .wSettle ∧
      { idleState [] with uopPort := some 0x15 }.uopPort = some 0x15#5 ∧
      decode (idleState []).cfg.bufDepth (.uop 0x15#5) = .error .uopReserved ∧ (idleState []).seq = .ready ∧
      { startingState with uopPort := some 0x09 }.uopPort = some 0x09#5 ∧ startingState.seq ≠ .ready :=
  ⟨rfl, by decide, rfl, by decide, rfl, rfl, by decide⟩
theorem readyIn_idleState (peers : List Bool) : (idleState peers).readyIn .idle := ⟨rfl, rfl, rfl, rfl⟩
theorem readyIn_busyState (peers : List Bool) : (busyState peers).readyIn .busy := ⟨rfl, rfl, rfl, rfl⟩
/-- The configuration of the small states reads the input pin as R38 says. -/
theorem readsInput_cfg4 : cfg4.resolveSda.readsInput := ⟨rfl, rfl⟩
theorem witness_AcceptanceLoadsTheOperandRegisters :
    (idleState []).uopPort = none ∧ { idleState [] with host := [.launch 0x80680400] }.readyIn .idle ∧
      decode (idleState []).cfg.bufDepth (.cmd 0x80680400#32) = .ok (.rdn 0x68 4) ∧
      neededBusState (.rdn 0x68 4) = some .idle := ⟨rfl, ⟨rfl, rfl, rfl, rfl⟩, by decide, rfl⟩
theorem witness_AcceptanceLoadsTheOperandRegisters_while_busy :
    startingState.uopPort = none ∧ startingState.seq ≠ .ready := ⟨rfl, by decide⟩
theorem witness_RunningBlockAcceptsNoCommand :
    Instr.rdb.isCommand = true ∧ startingState.seq ≠ .ready := by decide
theorem witness_HostWritesTheBufferWhileReady :
    { idleState [] with host := [.writeBuf 3 0x5A] }.uopPort = none ∧ (idleState []).seq = .ready ∧
      3 < (idleState []).cfg.bufDepth ∧ (idleState []).cfg.bufDepth ≤ 4 ∧
      startingState.seq ≠ .ready ∧ startingState.wellBehaved = true ∧ startingState.restAtLaunch = true :=
  ⟨rfl, rfl, by decide, by decide, by decide, rfl, rfl⟩
theorem witness_ReadyBlockWaitsForTheHost :
    (idleState []).uopPort = none ∧ (idleState []).seq = .ready ∧ (idleState []).host = [] ∧
      { idleState [] with host := [.quiet] }.host = .quiet :: [] := ⟨rfl, rfl, rfl, rfl⟩
theorem witness_SampleAnswersTheDataWire :
    ({ idleState [true] with sda := ⟨.inputPullup, .high⟩ }.sda.mode = .inputPullup ∧
        { idleState [true] with sda := ⟨.inputPullup, .high⟩ }.peerLowAt 0 = true) ∧
      { idleState [false] with sda := ⟨.inputPullup, .low⟩ }.peerLowAt 0 = false ∧
      ((busyState [false]).sda.mode = .output ∧ (busyState [false]).sda.latch = .low) ∧
      ((idleState [false]).sda.mode = .output ∧ (idleState [false]).sda.latch = .high ∧
        (idleState [false]).peerLowAt 0 = false) ∧
      (idleState []).cfg.resolveSda.readsInput ∧ (idleState []).cfg.resolveSda = SdaResolve.default := by decide
/-- A driven high pin against a peer, on a platform that states the level. -/
theorem witness_SampleAnswersTheDataWire_any_platform :
    wireEntry yieldingPad (idleState [true]).sda ((idleState [true]).peerLowAt 0) = some .low := rfl
theorem witness_StepsPutOutOnlyMicroOperationWords :
    (∃ t, step startingState = .next t) ∧ startingState.seq ≠ .ready := ⟨⟨_, rfl⟩, by decide⟩
theorem witness_ClockPrimitives :
    { busyState [true] with sda := ⟨.inputPullup, .low⟩ }.cfg.resolveSda.readsInput ∧
      { busyState [true] with sda := ⟨.inputPullup, .low⟩ }.sda.mode = .inputPullup := ⟨readsInput_cfg4, rfl⟩

/-! ### Witnesses: the commands -/

theorem witness_StartTakesTheBus : (idleState []).readyIn .idle := readyIn_idleState []
theorem witness_StopReleasesTheBus : (busyState []).readyIn .busy := readyIn_busyState []
theorem witness_WriteByteSendsAndSamplesAcknowledge :
    (busyState []).cfg.resolveSda.readsInput ∧ (busyState [true]).readyIn .busy ∧ (busyState [true]).peerLowAt 0 = true ∧
      (busyState [false]).readyIn .busy ∧ (busyState [false]).peerLowAt 0 = false :=
  ⟨readsInput_cfg4, readyIn_busyState _, rfl, readyIn_busyState _, rfl⟩
theorem witness_ReadByteAssemblesEightSamples :
    (busyState []).readyIn .busy ∧ (busyState []).cfg.resolveSda.readsInput := ⟨readyIn_busyState [], readsInput_cfg4⟩
theorem allAcknowledged : ∀ j, j ≤ (4#8).toNat → (idleState [true, true, true, true, true]).peerLowAt j = true := by decide
theorem witness_WriteTransactionAllAcknowledged :
    (idleState [true, true, true, true, true]).readyIn .idle ∧ (idleState []).cfg.resolveSda.readsInput ∧
      (4#8).toNat ≤ (idleState []).cfg.bufDepth ∧
      (idleState []).buf.length = (idleState []).cfg.bufDepth ∧
      (∀ j, j ≤ (4#8).toNat → (idleState [true, true, true, true, true]).peerLowAt j = true) :=
  ⟨readyIn_idleState _, readsInput_cfg4, by decide, rfl, allAcknowledged⟩
/-- Refusals at the address byte and at the last data byte. -/
theorem witness_WriteTransactionEndsAtTheFirstRefusal :
    (idleState [false]).readyIn .idle ∧ (idleState [false]).cfg.resolveSda.readsInput ∧ (2#8).toNat ≤ (idleState []).cfg.bufDepth ∧
      (idleState []).buf.length = (idleState []).cfg.bufDepth ∧
      (0 ≤ (2#8).toNat ∧ (∀ j, j < 0 → (idleState [false]).peerLowAt j = true) ∧ (idleState [false]).peerLowAt 0 = false) ∧
      (2 ≤ (2#8).toNat ∧ (∀ j, j < 2 → (idleState [true, true, false]).peerLowAt j = true) ∧
        (idleState [true, true, false]).peerLowAt 2 = false) :=
  ⟨readyIn_idleState _, readsInput_cfg4, by decide, rfl, by decide, by decide⟩
theorem witness_ReadOneByteTransaction :
    (idleState [true]).readyIn .idle ∧ (idleState [true]).cfg.resolveSda.readsInput ∧
      (idleState [true]).peerLowAt 0 = true := ⟨readyIn_idleState _, readsInput_cfg4, rfl⟩
theorem witness_ReadWordTransaction :
    (idleState [true]).readyIn .idle ∧ (idleState [true]).cfg.resolveSda.readsInput ∧
      (idleState [true]).peerLowAt 0 = true := ⟨readyIn_idleState _, readsInput_cfg4, rfl⟩
theorem witness_ReadBufferTransaction :
    (idleState [true]).readyIn .idle ∧ (idleState [true]).cfg.resolveSda.readsInput ∧ 1 ≤ (1#8).toNat ∧ 1 ≤ (4#8).toNat ∧ (4#8).toNat ≤ (idleState [true]).cfg.bufDepth ∧
      (idleState [true]).buf.length = (idleState [true]).cfg.bufDepth ∧ (idleState [true]).peerLowAt 0 = true :=
  ⟨readyIn_idleState _, readsInput_cfg4, by decide, by decide, by decide, rfl, rfl⟩
theorem witness_ReadRefusedAtTheAddressByte :
    (idleState [false]).readyIn .idle ∧ (idleState [false]).cfg.resolveSda.readsInput ∧
      (idleState [false]).peerLowAt 0 = false ∧ 1 ≤ (1#8).toNat ∧
      (4#8).toNat ≤ (idleState [false]).cfg.bufDepth ∧
      (idleState [false]).buf.length = (idleState [false]).cfg.bufDepth :=
  ⟨readyIn_idleState _, readsInput_cfg4, rfl, by decide, by decide, rfl⟩

/-! ### Witnesses: the contract -/

theorem witness_CommandOutsideItsBusStateIsRefused :
    ((busyState []).seq = .ready ∧ (busyState []).wellBehaved = true ∧ (busyState []).restAtLaunch = true ∧
        (busyState []).busState ≠ .idle) ∧
      ((idleState []).seq = .ready ∧ (idleState []).wellBehaved = true ∧ (idleState []).restAtLaunch = true ∧
        (idleState []).busState ≠ .busy) ∧
      (4#8).toNat ≤ (busyState []).cfg.bufDepth ∧ 1 ≤ (1#8).toNat :=
  ⟨⟨rfl, rfl, rfl, by decide⟩, ⟨rfl, rfl, rfl, by decide⟩, by decide, by decide⟩
theorem witness_LengthOutOfRangeIsRefused :
    (idleState []).seq = .ready ∧ (idleState []).cfg.bufDepth < (5#8).toNat ∧ (0#8).toNat = 0 := ⟨rfl, by decide, rfl⟩
theorem witness_NoCommandWithoutTheEnvironmentPremise :
    (Instr.rdn 0x68 4).isCommand = true ∧ (Instr.rdn 0x68 4).wellFormed (idleState []).cfg.bufDepth = true ∧
      { idleState [] with wellBehaved := false }.seq = .ready ∧
      { idleState [] with wellBehaved := false }.wellBehaved = false ∧
      { idleState [] with restAtLaunch := false }.wellBehaved = true ∧
      { idleState [] with restAtLaunch := false }.restAtLaunch = false := ⟨rfl, by decide, rfl, rfl, rfl, rfl⟩
theorem witness_BusStateAfterEachCommand :
    (idleState []).readyIn .idle ∧ (busyState []).readyIn .busy ∧ (0#8).toNat ≤ (idleState []).cfg.bufDepth ∧
      1 ≤ (1#8).toNat ∧ (4#8).toNat ≤ (idleState []).cfg.bufDepth :=
  ⟨readyIn_idleState _, readyIn_busyState _, by decide, by decide, by decide⟩

/-! ### Witnesses: whole-machine rules -/

theorem inv_busyState (peers : List Bool) : (busyState peers).Inv :=
  ⟨show cfg4.wf by decide, rfl, rfl, rfl, fun _ => .inr rfl, fun _ _ _ h => nomatch h⟩
theorem inv_startingState : startingState.Inv :=
  ⟨show cfg4.wf by decide, rfl, rfl, rfl, (fun h => nomatch h), fun c k answers h => by
    cases h; exact ⟨.idle, rfl, rfl, rfl⟩⟩
theorem witness_InvariantHoldsAtReset : cfg4.wf ∧ { cfg4 with resolveSda := yieldingPad }.wf := by decide
/-- A step between commands, and one inside a command. -/
theorem witness_EveryStepKeepsTheInvariant :
    (busyState []).Inv ∧ (∃ t, step ((busyState []).setHost [.command 0x20000000]) = .next t ∧ t.busState = .idle) ∧
      startingState.Inv ∧ (∃ t, step startingState = .next t ∧ t.seq = .run .start 2 []) :=
  ⟨inv_busyState _, ⟨_, rfl, rfl⟩, inv_startingState, ⟨_, rfl, rfl⟩⟩
theorem witness_NoStepChangesTheConfiguration :
    ∃ t, step ((busyState [true]).withFetchWord 32 0x300000A0) = .next t ∧ t.ackf = true := ⟨_, rfl, rfl⟩
theorem witness_OnlyAcknowledgedCommandsWriteTheFlag :
    ∃ t, exec (.wrb 0xA0) (busyState [true]) = .next t ∧ t.ackf ≠ (busyState [true]).ackf := ⟨_, rfl, by decide⟩
theorem witness_OnlyStartTakesAndOnlyStopReleasesTheBus :
    (∃ t, exec .start (idleState []) = .next t ∧ (idleState []).busState = .idle ∧ t.busState = .busy) ∧
      (∃ t, exec .stop (busyState []) = .next t ∧ (busyState []).busState = .busy ∧ t.busState = .idle) ∧
      (∃ t, exec (.wrb 0) (busyState [false]) = .next t ∧ (busyState [false]).busState = .busy ∧ t.busState = .idle) :=
  ⟨⟨_, rfl, rfl, rfl⟩, ⟨_, rfl, rfl, rfl⟩, ⟨_, rfl, rfl, rfl⟩⟩
theorem witness_NoCommandDependsOnTheFlag : ∃ t, exec .rdb (busyState []) = .next t := ⟨_, rfl⟩
theorem witness_TraceDoesNotDependOnTheConfiguration :
    { Config.default with bufDepth := 4 }.bufDepth = (idleState []).cfg.bufDepth ∧
      { Config.default with bufDepth := 4 }.resolveSda = (idleState []).cfg.resolveSda ∧
      ∃ t, exec (.wrt 0x50 2) (idleState [true, true, true]) = .next t := ⟨rfl, rfl, _, rfl⟩
theorem witness_RefusedByteIsNotRecorded :
    (idleState [false]).seq = .ready ∧
      (∃ t, exec (.wrt 0x50 1) (idleState [false]) = .next t ∧ t.ackf = false) ∧
      (∃ u, exec (.wrt 0x50 1) { idleState [false] with peers := [true, false] } = .next u ∧ u.ackf = false) :=
  ⟨rfl, ⟨_, rfl, rfl⟩, ⟨_, rfl, rfl⟩⟩

/-! ### Witnesses: traces. Each command, with its outcomes, in the bus state it needs. -/

/-- The hypotheses of the statements about traces, met by the command `i` on `s`, with the flag `ack` after it. -/
def meets (i : Instr) (s : State) (b : BusState) (ack : Bool) : Prop :=
  neededBusState i = some b ∧ s.readyIn b ∧ s.buf.length = s.cfg.bufDepth ∧ ∃ t, exec i s = .next t ∧ t.ackf = ack

theorem meets_start : meets .start (idleState []) .idle false := ⟨rfl, readyIn_idleState _, rfl, _, rfl, rfl⟩
theorem meets_stop : meets .stop (busyState []) .busy false := ⟨rfl, readyIn_busyState _, rfl, _, rfl, rfl⟩
theorem meets_wrb_acknowledged : meets (.wrb 0xA0) (busyState [true]) .busy true :=
  ⟨rfl, readyIn_busyState _, rfl, _, rfl, rfl⟩
theorem meets_wrb_refused : meets (.wrb 0xFF) (busyState [false]) .busy false :=
  ⟨rfl, readyIn_busyState _, rfl, _, rfl, rfl⟩
theorem meets_rdb : meets .rdb (busyState []) .busy false := ⟨rfl, readyIn_busyState _, rfl, _, rfl, rfl⟩
theorem meets_wrt_acknowledged : meets (.wrt 0x50 0) (idleState [true]) .idle true :=
  ⟨rfl, readyIn_idleState _, rfl, _, rfl, rfl⟩
theorem meets_wrt_refused : meets (.wrt 0x50 1) (idleState [true, false]) .idle false :=
  ⟨rfl, readyIn_idleState _, rfl, _, rfl, rfl⟩
theorem meets_rd1 : meets (.rd1 0x68) (idleState [true]) .idle true := ⟨rfl, readyIn_idleState _, rfl, _, rfl, rfl⟩
theorem meets_rd1_refused : meets (.rd1 0x68) (idleState [false]) .idle false :=
  ⟨rfl, readyIn_idleState _, rfl, _, rfl, rfl⟩
theorem meets_rd2 : meets (.rd2 0x48) (idleState [true]) .idle true := ⟨rfl, readyIn_idleState _, rfl, _, rfl, rfl⟩
theorem meets_rd2_refused : meets (.rd2 0x48) (idleState [false]) .idle false :=
  ⟨rfl, readyIn_idleState _, rfl, _, rfl, rfl⟩
theorem meets_rdn : meets (.rdn 0x68 1) (idleState [true]) .idle true := ⟨rfl, readyIn_idleState _, rfl, _, rfl, rfl⟩
theorem meets_rdn_refused : meets (.rdn 0x68 4) (idleState [false]) .idle false :=
  ⟨rfl, readyIn_idleState _, rfl, _, rfl, rfl⟩

/-- Of SizesOfTheTraces, LowerBoundsOnDuration and StartAndStopConditionsOfEachCommand: each command and outcome. -/
theorem witness_SizesOfTheTraces :
    (meets .start (idleState []) .idle false ∧ meets .stop (busyState []) .busy false ∧
      meets (.wrb 0xA0) (busyState [true]) .busy true ∧ meets (.wrb 0xFF) (busyState [false]) .busy false ∧
      meets .rdb (busyState []) .busy false) ∧
    (meets (.wrt 0x50 0) (idleState [true]) .idle true ∧ meets (.wrt 0x50 1) (idleState [true, false]) .idle false ∧
      meets (.rd1 0x68) (idleState [true]) .idle true ∧ meets (.rd1 0x68) (idleState [false]) .idle false ∧
      meets (.rd2 0x48) (idleState [true]) .idle true ∧ meets (.rd2 0x48) (idleState [false]) .idle false ∧
      meets (.rdn 0x68 1) (idleState [true]) .idle true ∧ meets (.rdn 0x68 4) (idleState [false]) .idle false) :=
  ⟨⟨meets_start, meets_stop, meets_wrb_acknowledged, meets_wrb_refused, meets_rdb⟩,
    meets_wrt_acknowledged, meets_wrt_refused, meets_rd1, meets_rd1_refused, meets_rd2, meets_rd2_refused, meets_rdn,
    meets_rdn_refused⟩
/-- The two boundary refusals of `WRT a, 1`: the address byte, and its only data byte. -/
theorem witness_SizesOfTheTraces_refused_at_k :
    (idleState []).cfg.resolveSda.readsInput ∧
      ((∀ j, j < 0 → (idleState [false]).peerLowAt j = true) ∧ (idleState [false]).peerLowAt 0 = false ∧ 0 ≤ (1#8).toNat) ∧
      ((∀ j, j < 1 → (idleState [true, false]).peerLowAt j = true) ∧ (idleState [true, false]).peerLowAt 1 = false ∧
        1 ≤ (1#8).toNat) := by decide
theorem witness_LowerBoundsOnDuration :
    meets (.wrb 0xFF) (busyState [false]) .busy false ∧ meets (.wrt 0x50 0) (idleState [true]) .idle true ∧
      meets (.rd1 0x68) (idleState [true]) .idle true ∧ meets (.rd2 0x48) (idleState [true]) .idle true ∧
      meets (.rdn 0x68 1) (idleState [true]) .idle true :=
  ⟨meets_wrb_refused, meets_wrt_acknowledged, meets_rd1, meets_rd2, meets_rdn⟩
theorem witness_StartAndStopConditionsOfEachCommand :
    meets .start (idleState []) .idle false ∧ meets .stop (busyState []) .busy false ∧
      meets (.wrb 0xFF) (busyState [false]) .busy false ∧ meets (.wrt 0x50 1) (idleState [true, false]) .idle false :=
  ⟨meets_start, meets_stop, meets_wrb_refused, meets_wrt_refused⟩
theorem witness_NoCommandSwitchesTheClockPin :
    (Instr.wrb 0xA0).isCommand = true ∧ ∃ t, exec (.wrb 0xA0) (busyState [true]) = .next t := ⟨rfl, _, rfl⟩
/-- T6 of 95_test_vectors.md: `D0 wS C0` with `T_START_HOLD = 5`, the `C0` at the 5th tick and no sooner. -/
theorem witness_WaitsAreLowerBounds :
    [3].length = [Uop.wStart].length ∧ timingAllowed cfg4 ((.d0, 3) :: ([Uop.wStart].zip [3] ++ [(.c0, 8)])) ∧
      minDuration cfg4 [.d0, .wStart] = 5 := ⟨rfl, ⟨by decide, by decide, trivial⟩, by decide⟩
theorem witness_LoopbackReproducesTheByte :
    (busyState [true]).readyIn .busy ∧ (busyState []).cfg.resolveSda.readsInput ∧
      (busyState (answering [1, 0, 1, 0, 0, 1, 0, 1])).readyIn .busy ∧
      ∃ t, exec (.wrb 0xA5) (busyState [true]) = .next t ∧
        (busyState (answering [1, 0, 1, 0, 0, 1, 0, 1])).answersAt 0 8 =
          (levelsAtRise (busyState [true]).sda (uopsOf ((busyState [true]).newEvents t))).take 8 :=
  ⟨readyIn_busyState _, readsInput_cfg4, readyIn_busyState _, _, rfl, rfl⟩

/-! ### Witnesses: equivalences -/

theorem witness_WriteTransactionEqualsItsByteCommands :
    (idleState [true, true, true, true, true]).readyIn .idle ∧ (idleState []).cfg.resolveSda.readsInput ∧
      (4#8).toNat ≤ (idleState []).cfg.bufDepth ∧
      (idleState []).buf.length = (idleState []).cfg.bufDepth ∧
      (∀ j, j ≤ (4#8).toNat → (idleState [true, true, true, true, true]).peerLowAt j = true) ∧
      (1 ≤ (1#8).toNat ∧ (∀ j, j < 1 → (idleState [true, false]).peerLowAt j = true) ∧
        (idleState [true, false]).peerLowAt 1 = false) :=
  ⟨readyIn_idleState _, readsInput_cfg4, by decide, rfl, allAcknowledged, by decide⟩
theorem witness_ReadTransactionEqualsItsByteCommands :
    (idleState [true]).readyIn .idle ∧ (idleState []).cfg.resolveSda.readsInput ∧ 1 ≤ (1#8).toNat ∧
      (4#8).toNat ≤ (idleState []).cfg.bufDepth ∧
      (idleState []).buf.length = (idleState []).cfg.bufDepth ∧ (idleState [true]).peerLowAt 0 = true ∧
      (idleState [false]).readyIn .idle ∧ (idleState [false]).peerLowAt 0 = false :=
  ⟨readyIn_idleState _, readsInput_cfg4, by decide, by decide, rfl, rfl, readyIn_idleState _, rfl⟩
theorem witness_FixedReadsAreBufferReads :
    (idleState [true]).readyIn .idle ∧ 2 ≤ (idleState [true]).cfg.bufDepth ∧
      (idleState [true]).buf.length = (idleState [true]).cfg.bufDepth ∧
      ∃ t, exec (.rd1 0x68) (idleState [true]) = .next t ∧ t.ackf = true :=
  ⟨readyIn_idleState _, by decide, rfl, _, rfl, rfl⟩
theorem witness_MicroOperationStepsEqualTheWholeCommand :
    (idleState []).uopPort = none ∧ (idleState []).seq = .ready ∧
      (∃ t, step { idleState [] with host := [.command 0x10000000] } = .next t) ∧
      step { idleState [] with host := [.command 0x20000000] } = .refused (.outOfContract .busy) :=
  ⟨rfl, rfl, ⟨_, rfl⟩, rfl⟩
theorem witness_PositionCountsTheMicroOperations :
    (idleState []).uopPort = none ∧ (idleState []).seq = .ready ∧
      decode (idleState []).cfg.bufDepth (.cmd 0x10000000#32) = .ok .start ∧
      ∃ t, step { idleState [] with host := [.command 0x10000000] } = .next t ∧
        2 < t.log.length - (idleState []).log.length := ⟨rfl, rfl, by decide, _, rfl, by decide⟩

end Sys2Proof.Tests
end

section
/-! The sample of the data wire: what a `Dr` answers, by the pin's mode and latch and the peers' pull (R38, R40). -/

namespace Sys2Proof.Machine

open Sys2Proof

/-- The default `resolve_sda` on a pin driven low: no pull of a peer matters (R40). -/
theorem wireEntry_default_drivenLow {p : Pin} (hm : p.mode = .output) (hl : p.latch = .low) (b : Bool) :
    wireEntry SdaResolve.default p b = some .low := by
  cases b <;> simp [wireEntry, wireRow, hm, hl, SdaResolve.default]

/-- The default `resolve_sda` on a pin driven high that no peer pulls (R40). -/
theorem wireEntry_default_drivenHigh {p : Pin} (hm : p.mode = .output) (hl : p.latch = .high) :
    wireEntry SdaResolve.default p false = some .high := by
  simp [wireEntry, wireRow, hm, hl, SdaResolve.default]

theorem exec_dRead (s : State) :
    exec .dRead s = .next (s.ran s.scl s.sda s.sdaWire 1 [⟨.dRead, some s.sdaWire⟩]) :=
  congrArg Host.Outcome.next s.perform_dRead

theorem State.sdaWire_of_entry {s : State} {l : Level}
    (h : wireEntry s.cfg.resolveSda s.sda (s.peerLowAt 0) = some l) : s.sdaWire = l :=
  wireLevel_of_entry h s.fresh

/-- Settles O19: the level is that of the data wire, and each clause names the entry of `resolve_sda` it reads. -/
theorem sampleAnswersTheDataWire : Obligations.SampleAnswersTheDataWire := by
  intro s
  refine ⟨s.sdaWire, exec_dRead s, fun _ h => State.sdaWire_of_entry h, ?pulled, ?released,
    fun hdefault => ⟨?drivenLow, ?drivenHigh⟩⟩
  case pulled =>
    intro hreads hmode hpeer
    rw [s.sdaWire_input hreads hmode, hpeer, answerLevel_true]
  case released =>
    intro hreads hmode hpeer
    rw [s.sdaWire_input hreads hmode, hpeer, answerLevel_false]
  case drivenLow =>
    intro hmode hlatch
    apply State.sdaWire_of_entry
    rw [hdefault, wireEntry_default_drivenLow hmode hlatch]
  case drivenHigh =>
    intro hmode hlatch hpeer
    apply State.sdaWire_of_entry
    rw [hdefault, hpeer, wireEntry_default_drivenHigh hmode hlatch]

end Sys2Proof.Machine
end

section
/-! The paths of a micro-program: what holds of its result and of the micro-operations it issues, whatever the samples
answer. One notion for a program run to its end (R57) and for one that stands at `RUN(c, k)` (R33). -/

namespace Sys2Proof.Machine

open Sys2Proof

/-- Whatever its samples answer, the program ends with a result `a` and micro-operations `us` issued, in order, of which
`Q a us` holds. -/
def Prog.ends {α : Type} (p : Prog α) (Q : α → List Uop → Prop) : Prop :=
  match p with
  | .ret a => Q a []
  | .issue u rest => rest.ends fun a us => Q a (u :: us)
  | .sample rest => ∀ b, (rest b).ends fun a us => Q a (.dRead :: us)

variable {α β : Type}

theorem Prog.ends_of_forall {p : Prog α} {Q : α → List Uop → Prop} (h : ∀ a us, Q a us) : p.ends Q := by
  induction p generalizing Q with
  | ret a => exact h a []
  | issue u rest ih => exact ih fun a us => h a _
  | sample rest ih => exact fun b => ih b fun a us => h a _

theorem Prog.ends.mono {p : Prog α} {Q R : α → List Uop → Prop} (h : p.ends Q) (hQ : ∀ a us, Q a us → R a us) :
    p.ends R := by
  induction p generalizing Q R with
  | ret a => exact hQ a [] h
  | issue u rest ih => exact ih h fun a us => hQ a _
  | sample rest ih => exact fun b => ih b (h b) fun a us => hQ a _

theorem Prog.ends.and {p : Prog α} {Q R : α → List Uop → Prop} (hQ : p.ends Q) (hR : p.ends R) :
    p.ends fun a us => Q a us ∧ R a us := by
  induction p generalizing Q R with
  | ret a => exact ⟨hQ, hR⟩
  | issue u rest ih => exact ih hQ hR
  | sample rest ih => exact fun b => ih b (hQ b) (hR b)

theorem Prog.ends_bind (p : Prog α) (f : α → Prog β) (Q : β → List Uop → Prop) :
    (p.bind f).ends Q ↔ p.ends fun a us => (f a).ends fun b vs => Q b (us ++ vs) := by
  induction p generalizing Q with
  | ret a => rfl
  | issue u rest ih => exact ih _
  | sample rest ih => exact forall_congr' fun b => ih b _

theorem issueAll_ends (us : List Uop) (Q : Unit → List Uop → Prop) : (issueAll us).ends Q ↔ Q () us := by
  induction us generalizing Q with
  | nil => rfl
  | cons u us ih => exact ih _

theorem pinsAfter_append (scl sda : Pin) (us vs : List Uop) :
    pinsAfter scl sda (us ++ vs) = pinsAfter (pinsAfter scl sda us).1 (pinsAfter scl sda us).2 vs := by
  induction us generalizing scl sda with
  | nil => rfl
  | cons u us ih => exact ih _ _

/-- A program run to its end takes one of its paths, and leaves the pins that path makes (R61). -/
theorem Prog.ends.run {p : Prog α} {Q : α → List Uop → Prop} (h : p.ends Q) (s : State) :
    ∃ ans n es,
      (p.run s).2 = s.ran (pinsAfter s.scl s.sda (uopsOf es)).1 (pinsAfter s.scl s.sda (uopsOf es)).2 ans n es ∧
      Q (p.run s).1 (uopsOf es) := by
  induction p generalizing Q s with
  | ret a => exact ⟨s.uopAns, 0, [], s.ran_nil.symm, h⟩
  | issue u rest ih =>
    obtain ⟨ans, n, e, hu, rfl⟩ := s.perform_ran u
    obtain ⟨ans', m, es, hrun, hQ⟩ := ih h (s.perform e.op)
    refine ⟨ans', n + m, e :: es, ?_, hQ⟩
    rw [Prog.run, hrun, hu]
    simp [uopsOf, pinsAfter]
  | sample rest ih =>
    obtain ⟨ans, n, e, hu, he⟩ := s.perform_ran .dRead
    obtain ⟨ans', m, es, hrun, hQ⟩ := ih (s.perform .dRead).uopAns (h _) (s.perform .dRead)
    refine ⟨ans', n + m, e :: es, ?_, ?_⟩
    · rw [Prog.run, hrun, hu]
      simp [uopsOf, pinsAfter, he]
    · rw [uopsOf, List.map_cons, he]
      exact hQ

/-- What is left of a program at `RUN(c, k)` goes on along the path taken so far (R33). -/
theorem Prog.ends.after {p : Prog α} {Q : α → List Uop → Prop} (h : p.ends Q) (k : Nat) (answers : List Level) :
    (p.after k answers).ends fun a us => Q a (p.issued k answers ++ us) := by
  induction p generalizing Q k answers with
  | ret a => cases k <;> exact h
  | issue u rest ih =>
    cases k with
    | zero => exact h
    | succ k => exact ih h k answers
  | sample rest ih =>
    cases k with
    | zero => exact h
    | succ k =>
      cases answers with
      | nil => exact h
      | cons b bs => exact ih b (h b) k bs

end Sys2Proof.Machine
end

section
/-! The register writes at a command's end, and the paths of the commands' programs: no `Co` (R39), and the pins at rest
at the end (R41, R150). -/

namespace Sys2Proof.Machine

open Sys2Proof

/-- What a command does to the registers when its micro-operations are issued (R122, R123, R131, R141, R154, R156 to
R158). -/
inductive RegisterWrite : (State → State) → Prop
  | nothing : RegisterWrite id
  | flag (ok : Bool) : RegisterWrite fun s => s.writeAckf ok
  | nack : RegisterWrite fun s => s.raiseNack
  | byte (v : Byte) : RegisterWrite fun s => s.setRData v
  | byteRead (v : Byte) : RegisterWrite fun s => (s.setRData v).writeAckf true
  | byteNotRead : RegisterWrite fun s => s.freeRData.raiseNack
  | wordRead (v : Word16) : RegisterWrite fun s => (s.setRWord v).writeAckf true
  | wordNotRead : RegisterWrite fun s => s.freeRWord.raiseNack
  | bytesRead (vs : List Byte) : RegisterWrite fun s => (s.setBuf (overwritePrefix vs s.buf)).writeAckf true
  | bytesNotRead (n : Byte) : RegisterWrite fun s => (s.freeBuf n).raiseNack

namespace RegisterWrite

variable {f : State → State} (h : RegisterWrite f) (s : State)
include h

theorem cfg : (f s).cfg = s.cfg := by cases h <;> rfl
theorem scl : (f s).scl = s.scl := by cases h <;> rfl
theorem sda : (f s).sda = s.sda := by cases h <;> rfl
theorem uopPort : (f s).uopPort = s.uopPort := by cases h <;> rfl
theorem log : (f s).log = s.log := by cases h <;> rfl

theorem buf_length : (f s).buf.length = s.buf.length := by
  cases h
  case bytesRead vs => exact overwritePrefix_length vs s.buf
  case bytesNotRead n => exact overwritePrefix_length _ s.buf
  all_goals rfl

theorem seq_ready (hs : s.seq = .ready) : (f s).seq = .ready := by
  cases h
  case nack | byteNotRead | wordNotRead | bytesNotRead => rfl
  all_goals exact hs

/-- The position a command stood at has no part in its register writes. -/
theorem setSeq_ready : f (s.setSeq .ready) = (f s).setSeq .ready := by cases h <;> rfl

/-- The flag as it was has no part in the register writes, apart from the flag itself (R35). -/
theorem setAck (b : Bool) : f s = (f (s.setAck b)).setAck (f s).ackf := by cases h <;> rfl

end RegisterWrite

/-- A body made of a micro-program and the writes its result calls for. -/
theorem ends_bind_ret {α : Type} (p : Prog α) {w : α → State → State} {R : (State → State) → Prop} (h : ∀ a, R (w a)) :
    (p.bind fun a => .ret (w a)).ends fun f _ => R f :=
  (p.ends_bind _ _).2 (Prog.ends_of_forall fun a _ => h a)

/-- Every command ends with one of the register writes. -/
theorem bodyOf_ends_registerWrite (i : Instr) (s : State) : (bodyOf i s).ends fun f _ => RegisterWrite f := by
  cases i
  case start => exact ends_bind_ret startSeq fun _ => .nothing
  case stop => exact ends_bind_ret stopSeq fun _ => .nothing
  case wrb => exact ends_bind_ret _ fun ok => .flag ok
  case rdb => exact ends_bind_ret _ fun v => .byte v
  case wrt =>
    refine ends_bind_ret _ fun ok => ?_
    cases ok
    · exact .nack
    · exact .flag true
  case rd1 =>
    refine ends_bind_ret _ fun r => ?_
    cases r
    · exact .byteNotRead
    · exact .byteRead _
  case rd2 =>
    refine ends_bind_ret _ fun r => ?_
    cases r
    · exact .wordNotRead
    · exact .wordRead _
  case rdn =>
    refine ends_bind_ret _ fun r => ?_
    cases r
    · exact .bytesNotRead _
    · exact .bytesRead _
  all_goals exact .nothing

/-! ### The pins -/

variable {α β : Type}

/-- From the pins `pins`, whatever the samples answer, the program issues no `Co` and ends with a result and pins of
which `Q` holds. -/
def Prog.leads (p : Prog α) (pins : Pin × Pin) (Q : α → Pin × Pin → Prop) : Prop :=
  p.ends fun a us => .cOut ∉ us ∧ Q a (pinsAfter pins.1 pins.2 us)

@[simp] theorem leads_ret (a : α) (pins : Pin × Pin) (Q : α → Pin × Pin → Prop) :
    (Prog.ret a).leads pins Q ↔ Q a pins := by
  simp [Prog.leads, Prog.ends, pinsAfter]

theorem leads_bind {p : Prog α} {f : α → Prog β} {pins : Pin × Pin} {Q : β → Pin × Pin → Prop}
    (h : p.leads pins fun a after => (f a).leads after Q) : (p.bind f).leads pins Q := by
  refine (p.ends_bind f _).2 (Prog.ends.mono h fun a us hus => Prog.ends.mono hus.2 fun b vs hvs => ?_)
  rw [pinsAfter_append, List.mem_append, not_or]
  exact ⟨⟨hus.1, hvs.1⟩, hvs.2⟩

theorem leads_andThen {p : Prog α} {q : Prog β} {pins : Pin × Pin} {Q : β → Pin × Pin → Prop}
    (h : p.leads pins fun _ after => q.leads after Q) : (p.andThen q).leads pins Q :=
  leads_bind h

theorem leads_issueAll {us : List Uop} (hus : .cOut ∉ us) {pins : Pin × Pin} {Q : Unit → Pin × Pin → Prop}
    (h : Q () (pinsAfter pins.1 pins.2 us)) : (issueAll us).leads pins Q :=
  (issueAll_ends us _).2 ⟨hus, h⟩

theorem leads_sample {rest : Level → Prog α} {pins : Pin × Pin} {Q : α → Pin × Pin → Prop}
    (h : ∀ b, (rest b).leads pins Q) : (Prog.sample rest).leads pins Q := fun b =>
  Prog.ends.mono (h b) fun _ us hus => ⟨by simpa using hus.1, hus.2⟩

section
variable {scl sda : Pin} {Q : Unit → Pin × Pin → Prop}

theorem raiseClock_leads (h : Q () (scl.set .high, sda)) : raiseClock.leads (scl, sda) Q :=
  leads_issueAll (by decide) h

theorem lowerClock_leads (h : Q () (scl.set .low, sda)) : lowerClock.leads (scl, sda) Q :=
  leads_issueAll (by decide) h

theorem pulseClock_leads (h : Q () (scl.set .low, sda)) : pulseClock.leads (scl, sda) Q :=
  leads_andThen (raiseClock_leads (lowerClock_leads h))

theorem pulseClockSample_leads {Q : Level → Pin × Pin → Prop} (h : ∀ b, Q b (scl.set .low, sda)) :
    pulseClockSample.leads (scl, sda) Q :=
  leads_andThen (raiseClock_leads (leads_sample fun b => leads_andThen (lowerClock_leads ((leads_ret _ _ _).2 (h b)))))

theorem startSeq_leads (h : Q () (scl.set .low, sda.set .low)) : startSeq.leads (scl, sda) Q :=
  leads_andThen (leads_issueAll (by decide) (lowerClock_leads h))

theorem stopSeq_leads (h : Q () (scl.set .high, sda.set .high)) : stopSeq.leads (scl, sda) Q :=
  leads_andThen (raiseClock_leads (leads_issueAll (by decide) h))

theorem sendBit_leads (b : Bool) (h : Q () (scl.set .low, sda.set (levelOfBit b))) :
    (sendBit b).leads (scl, sda) Q := by
  cases b <;> exact leads_andThen (leads_issueAll (by decide) (pulseClock_leads h))

end

theorem sendBits_leads (bs : List Bool) (l : Level) {Q : Unit → Pin × Pin → Prop}
    (h : ∀ l, Q () (lowPin, ⟨.output, l⟩)) : (sendBits bs).leads (lowPin, ⟨.output, l⟩) Q := by
  induction bs generalizing l with
  | nil => exact (leads_ret _ _ _).2 (h l)
  | cons b bs ih => exact leads_andThen (sendBit_leads b (ih _))

/-- R130, R133: `Busy` on an acknowledge, `Idle` on a refusal. -/
theorem writeByte_leads (v : Byte) {Q : Bool → Pin × Pin → Prop} (hack : Q true (lowPin, lowPin))
    (hnack : Q false (highPin, highPin)) : (writeByte v).leads (lowPin, lowPin) Q := by
  refine leads_andThen (sendBits_leads _ _ fun l => leads_andThen (leads_issueAll (by decide)
    (leads_bind (pulseClockSample_leads fun b => leads_andThen (leads_issueAll (by decide) ?_)))))
  cases b
  case low => exact (leads_ret _ _ _).2 hack
  case high => exact leads_andThen (stopSeq_leads ((leads_ret _ _ _).2 hnack))

theorem receiveBits_leads (n : Nat) (r : Byte) (sda : Pin) {Q : Byte → Pin × Pin → Prop}
    (h : ∀ v, Q v (lowPin, sda)) : (receiveBits n r).leads (lowPin, sda) Q := by
  induction n generalizing r with
  | zero => exact (leads_ret _ _ _).2 (h r)
  | succ n ih => exact leads_bind (pulseClockSample_leads fun b => ih _)

/-- R140, R144: the bus stays `Busy`. -/
theorem readByte_leads {Q : Byte → Pin × Pin → Prop} (h : ∀ v, Q v (lowPin, lowPin)) :
    readByte.leads (lowPin, lowPin) Q :=
  leads_andThen (leads_issueAll (by decide) (leads_bind (receiveBits_leads _ _ _ fun v => leads_andThen
    (leads_issueAll (by decide) (leads_andThen (pulseClock_leads ((leads_ret _ _ _).2 (h v))))))))

/-- R154, R176: `Busy` where all bytes are acknowledged, `Idle` after a refusal. -/
theorem writeBytes_leads (vs : List Byte) {Q : Bool → Pin × Pin → Prop} (hack : Q true (lowPin, lowPin))
    (hnack : Q false (highPin, highPin)) : (writeBytes vs).leads (lowPin, lowPin) Q := by
  induction vs with
  | nil => exact (leads_ret _ _ _).2 hack
  | cons v vs ih => exact leads_bind (writeByte_leads v ih ((leads_ret _ _ _).2 hnack))

theorem readBytes_leads (n : Nat) {Q : List Byte → Pin × Pin → Prop} (h : ∀ vs, Q vs (lowPin, lowPin)) :
    (readBytes n).leads (lowPin, lowPin) Q := by
  induction n generalizing Q with
  | zero => exact (leads_ret _ _ _).2 (h [])
  | succ n ih =>
    exact leads_bind (readByte_leads fun v => leads_bind (ih fun vs => (leads_ret _ _ _).2 (h (v :: vs))))

/-- R154, R162: a write transaction ends in `Idle`. -/
theorem writeTxn_leads (a : PeerAddr) (bytes : List Byte) {Q : Bool → Pin × Pin → Prop}
    (h : ∀ ok, Q ok (highPin, highPin)) : (writeTxn a bytes).leads (highPin, highPin) Q :=
  leads_andThen (startSeq_leads (leads_bind (writeBytes_leads _
    (leads_andThen (stopSeq_leads ((leads_ret _ _ _).2 (h true)))) ((leads_ret _ _ _).2 (h false)))))

/-- R155, R162: a read transaction ends in `Idle`. -/
theorem readTxn_leads (a : PeerAddr) (n : Nat) {Q : Option (List Byte) → Pin × Pin → Prop}
    (h : ∀ r, Q r (highPin, highPin)) : (readTxn a n).leads (highPin, highPin) Q :=
  leads_andThen (startSeq_leads (leads_bind (writeByte_leads _
    (leads_bind (readBytes_leads _ fun vs => leads_andThen (stopSeq_leads ((leads_ret _ _ _).2 (h (some vs))))))
    ((leads_ret _ _ _).2 (h none)))))

/-- The pins between commands: `Idle` or `Busy` (R41). -/
def AtRest (pins : Pin × Pin) : Prop := pins = (highPin, highPin) ∨ pins = (lowPin, lowPin)

theorem busState_atRest_iff (s : State) :
    (s.busState = .idle ∨ s.busState = .busy) ↔ AtRest (s.scl, s.sda) := by
  rw [busState_idle_iff, busState_busy_iff, AtRest, Prod.mk.injEq, Prod.mk.injEq]

/-- R150, R201: from the bus state it needs a command ends at rest, whatever the samples answer. -/
theorem bodyOf_leads {i : Instr} {b : BusState} (hb : neededBusState i = some b) (s : State) :
    (bodyOf i s).leads (restPin b, restPin b) fun _ pins => AtRest pins := by
  have idle : ∀ f : State → State, (Prog.ret f).leads (highPin, highPin) fun _ pins => AtRest pins :=
    fun f => (leads_ret f _ _).2 (.inl rfl)
  have busy : ∀ f : State → State, (Prog.ret f).leads (lowPin, lowPin) fun _ pins => AtRest pins :=
    fun f => (leads_ret f _ _).2 (.inr rfl)
  cases i <;> cases hb
  case start => exact leads_andThen (startSeq_leads (busy _))
  case stop => exact leads_andThen (stopSeq_leads (idle _))
  case wrb => exact leads_bind (writeByte_leads _ (busy _) (idle _))
  case rdb => exact leads_bind (readByte_leads fun _ => busy _)
  case wrt => exact leads_bind (writeTxn_leads _ _ fun _ => idle _)
  case rd1 => exact leads_bind (readTxn_leads _ _ fun _ => idle _)
  case rd2 => exact leads_bind (readTxn_leads _ _ fun _ => idle _)
  case rdn => exact leads_bind (readTxn_leads _ _ fun _ => idle _)

end Sys2Proof.Machine
end

section
/-! What an instruction can do, said once: a micro-operation of the Pin Driver port, a command that is not accepted, or
a command run to its end. -/

namespace Sys2Proof.Machine

open Sys2Proof

theorem isCommand_or_uop (i : Instr) : i.isCommand = true ∨ ∃ u, uopOf i = some u := by
  cases i <;> simp [Instr.isCommand, uopOf]

theorem uopOf_of_isCommand {i : Instr} (hi : i.isCommand = true) : uopOf i = none := by
  cases i <;> cases hi <;> rfl

theorem exec_command {i : Instr} (hi : i.isCommand = true) (s : State) : exec i s = s.runCommand i (bodyOf i) := by
  cases i <;> cases hi <;> rfl

theorem exec_uop {i : Instr} {u : Uop} (hu : uopOf i = some u) (s : State) : exec i s = .next (s.perform u) := by
  cases i <;> cases hu <;> rfl

theorem exec_command_busy {i : Instr} {s : State} (hi : i.isCommand = true) (hs : s.seq ≠ .ready) :
    exec i s = .next s := by
  simp [exec_command hi, State.runCommand, State.busy, hs]

/-- The state a command leaves where it is accepted: operands loaded, program run, registers written (R72, R57). -/
def State.commandResult (s : State) (i : Instr) : State :=
  let t := s.loadOperands (commandWord i)
  ((bodyOf i t).run t).1 ((bodyOf i t).run t).2

theorem exec_command_refused {i : Instr} {s : State} {r : Refusal} (hi : i.isCommand = true) (hs : s.seq = .ready)
    (ho : s.objection i = some r) : exec i s = .refused r := by
  simp [exec_command hi, State.runCommand, State.busy, hs, ho]

theorem exec_command_accepted {i : Instr} {s : State} (hi : i.isCommand = true) (hs : s.seq = .ready)
    (ho : s.objection i = none) : exec i s = .next (s.commandResult i) := by
  rw [exec_command hi, runCommand_next s i _ hs ho]
  rfl

/-- What an instruction does where it answers a next state. -/
inductive ExecCase (i : Instr) (s : State) : State → Prop
  | uop (u : Uop) : uopOf i = some u → ExecCase i s (s.perform u)
  | notAccepted : i.isCommand = true → s.seq ≠ .ready → ExecCase i s s
  | completed : i.isCommand = true → s.seq = .ready → s.objection i = none → ExecCase i s (s.commandResult i)

theorem exec_cases {i : Instr} {s t : State} (h : exec i s = .next t) : ExecCase i s t := by
  rcases isCommand_or_uop i with hi | ⟨u, hu⟩
  · by_cases hs : s.seq = .ready
    · cases ho : s.objection i with
      | some r => rw [exec_command_refused hi hs ho] at h; cases h
      | none => rw [exec_command_accepted hi hs ho] at h; cases h; exact .completed hi hs ho
    · rw [exec_command_busy hi hs] at h; cases h; exact .notAccepted hi hs
  · rw [exec_uop hu] at h; cases h; exact .uop u hu

/-- A command's result is one of its register writes on the state one of its paths makes. -/
theorem State.commandResult_of_ends {i : Instr} {s : State} {Q : (State → State) → List Uop → Prop}
    (h : (bodyOf i (s.loadOperands (commandWord i))).ends Q) :
    ∃ f ans n es, RegisterWrite f ∧ Q f (uopsOf es) ∧
      s.commandResult i =
        f ((s.loadOperands (commandWord i)).ran (pinsAfter s.scl s.sda (uopsOf es)).1
          (pinsAfter s.scl s.sda (uopsOf es)).2 ans n es) := by
  obtain ⟨ans, n, es, hrun, hw, hQ⟩ := ((bodyOf_ends_registerWrite i _).and h).run (s.loadOperands (commandWord i))
  exact ⟨_, ans, n, es, hw, hQ, congrArg _ hrun⟩

/-! ### The premises of acceptance -/

theorem neededBusState_of_isCommand {i : Instr} (hi : i.isCommand = true) : ∃ b, neededBusState i = some b := by
  cases i <;> cases hi <;> exact ⟨_, rfl⟩

/-- An accepted command finds the environment's premises met and the bus in the state it needs (R200, R201, R207). -/
theorem objection_none_inv {s : State} {i : Instr} {b : BusState} (hb : neededBusState i = some b)
    (ho : s.objection i = none) : s.environmentObjection = none ∧ s.busState = b := by
  unfold State.objection at ho
  split at ho
  · cases ho
  · cases he : s.environmentObjection with
    | some r => simp [he] at ho
    | none => simpa [he, hb] using ho

/-- A command begins with both pins at rest (R41, R201). -/
theorem pins_of_objection_none {s : State} {i : Instr} {b : BusState} (hb : neededBusState i = some b)
    (ho : s.objection i = none) : s.scl = restPin b ∧ s.sda = restPin b := by
  obtain ⟨-, hs⟩ := objection_none_inv hb ho
  cases b with
  | idle => exact (busState_idle_iff s).1 hs
  | busy => exact (busState_busy_iff s).1 hs
  | transitioning => cases i <;> cases hb

/-- R39, R150: an accepted command ends at rest, with no `Co` in its trace. -/
theorem State.commandResult_atRest {i : Instr} {s : State} {b : BusState} (hb : neededBusState i = some b)
    (ho : s.objection i = none) :
    AtRest ((s.commandResult i).scl, (s.commandResult i).sda) ∧
      ∃ es : List Event, (s.commandResult i).log = es.reverse ++ s.log ∧ .cOut ∉ uopsOf es := by
  obtain ⟨f, ans, n, es, hf, ⟨hco, hrest⟩, ht⟩ := State.commandResult_of_ends (bodyOf_leads hb (s.loadOperands _))
  obtain ⟨hscl, hsda⟩ := pins_of_objection_none hb ho
  rw [ht, hf.scl, hf.sda, hf.log, hscl, hsda]
  exact ⟨hrest, es, rfl, hco⟩

/-! ### What no instruction changes -/

theorem State.perform_log (s : State) (u : Uop) : ∃ e, (s.perform u).log = e :: s.log ∧ e.op = u := by
  obtain ⟨ans, n, e, h, he⟩ := s.perform_ran u
  exact ⟨e, by rw [h]; rfl, he⟩

theorem State.perform_cfg (s : State) (u : Uop) : (s.perform u).cfg = s.cfg := by
  obtain ⟨ans, n, e, h, -⟩ := s.perform_ran u
  rw [h]; rfl

/-- R22, R42: an instruction keeps the configuration and only adds to the trace. -/
theorem exec_frame {i : Instr} {s t : State} (h : exec i s = .next t) :
    t.cfg = s.cfg ∧ ∃ es : List Event, t.log = es.reverse ++ s.log := by
  cases exec_cases h with
  | uop u hu =>
    obtain ⟨e, he, -⟩ := s.perform_log u
    exact ⟨s.perform_cfg u, [e], he⟩
  | notAccepted => exact ⟨rfl, [], rfl⟩
  | completed =>
    obtain ⟨f, ans, n, es, hf, -, ht⟩ := State.commandResult_of_ends (bodyOf_ends_registerWrite i (s.loadOperands _))
    rw [ht, hf.cfg, hf.log]
    exact ⟨rfl, es, rfl⟩

theorem newEvents_of_log {s t : State} {es : List Event} (h : t.log = es.reverse ++ s.log) : s.newEvents t = es := by
  simp [State.newEvents, h]

/-- Settles O45: an accepted command's path has no `Co`, and it begins and ends with the clock pin at rest, an
output. -/
theorem noCommandSwitchesTheClockPin : Obligations.NoCommandSwitchesTheClockPin := by
  intro i s t hi h
  cases exec_cases h with
  | uop u hu => rw [uopOf_of_isCommand hi] at hu; cases hu
  | notAccepted => exact ⟨by rw [newEvents_of_log (es := []) rfl]; decide, rfl⟩
  | completed _ _ ho =>
    obtain ⟨b, hb⟩ := neededBusState_of_isCommand hi
    obtain ⟨hrest, es, hlog, hco⟩ := State.commandResult_atRest hb ho
    refine ⟨by rwa [newEvents_of_log hlog], ?_⟩
    have hend : (s.commandResult i).scl.mode = .output := by
      rcases hrest with h | h <;> rw [(Prod.mk.inj h).1]
    rw [hend, (pins_of_objection_none hb ho).1]
    cases b <;> rfl

/-! ### The flag -/

/-- Neither `START`, `STOP` nor `RDB` writes `ACKF` at its end (R122, R123, R141). -/
theorem bodyOf_ends_keeps_ackf {i : Instr} (hi : i = .start ∨ i = .stop ∨ i = .rdb) (s : State) :
    (bodyOf i s).ends fun f _ => ∀ u : State, (f u).ackf = u.ackf := by
  rcases hi with rfl | rfl | rfl
  · exact ends_bind_ret startSeq (w := fun _ => id) fun _ _ => rfl
  · exact ends_bind_ret stopSeq (w := fun _ => id) fun _ _ => rfl
  · exact ends_bind_ret readByte fun _ _ => rfl

/-- Settles O39: micro-operations, and the register writes of `START`, `STOP` and `RDB`, keep the flag. -/
theorem onlyAcknowledgedCommandsWriteTheFlag : Obligations.OnlyAcknowledgedCommandsWriteTheFlag := by
  intro i s t h hack
  cases exec_cases h with
  | uop u hu =>
    obtain ⟨ans, n, e, hp, -⟩ := s.perform_ran u
    exact absurd (by rw [hp]; rfl) hack
  | notAccepted => exact absurd rfl hack
  | completed hi =>
    have keeps (hi : i = .start ∨ i = .stop ∨ i = .rdb) : False := by
      obtain ⟨f, ans, n, es, -, hf, ht⟩ := State.commandResult_of_ends (bodyOf_ends_keeps_ackf hi (s.loadOperands _))
      exact hack (by rw [ht, hf]; rfl)
    cases i with
    | start => exact (keeps (.inl rfl)).elim
    | stop => exact (keeps (.inr (.inl rfl))).elim
    | rdb => exact (keeps (.inr (.inr rfl))).elim
    | wrb d => exact .inl ⟨d, rfl⟩
    | wrt a n => exact .inr (.inl ⟨a, n, rfl⟩)
    | rd1 a => exact .inr (.inr (.inl ⟨a, rfl⟩))
    | rd2 a => exact .inr (.inr (.inr (.inl ⟨a, rfl⟩)))
    | rdn a n => exact .inr (.inr (.inr (.inr ⟨a, n, rfl⟩)))
    | _ => cases hi

theorem State.perform_setAck (s : State) (b : Bool) (u : Uop) : (s.setAck b).perform u = (s.perform u).setAck b := by
  cases u <;> rfl

theorem State.perform_setSeq (s : State) (q : Seq) (u : Uop) : (s.setSeq q).perform u = (s.perform u).setSeq q := by
  cases u <;> rfl

/-- An update of a field that no micro-operation reads or writes can be made before a run or after it. -/
theorem Prog.run_update {α : Type} {g : State → State} (hg : ∀ s u, (g s).perform u = g (s.perform u))
    (hans : ∀ s, (g s).uopAns = s.uopAns) (p : Prog α) (s : State) : p.run (g s) = ((p.run s).1, g (p.run s).2) := by
  induction p generalizing s with
  | ret a => rfl
  | issue u rest ih => rw [Prog.run, Prog.run, hg]; exact ih _
  | sample rest ih => rw [Prog.run, Prog.run, hg, hans]; exact ih _ _

theorem bodyOf_setAck (i : Instr) (s : State) (b : Bool) : bodyOf i (s.setAck b) = bodyOf i s := by
  cases i <;> rfl

/-- R35: a command's result does not depend on the flag, apart from the flag itself. -/
theorem State.commandResult_setAck (i : Instr) (s : State) (b : Bool) :
    s.commandResult i = ((s.setAck b).commandResult i).setAck (s.commandResult i).ackf := by
  let u := s.loadOperands (commandWord i)
  have hrun : (bodyOf i (u.setAck b)).run (u.setAck b) =
      (((bodyOf i u).run u).1, ((bodyOf i u).run u).2.setAck b) := by
    rw [bodyOf_setAck, Prog.run_update (g := fun v => v.setAck b) (fun v w => v.perform_setAck b w) fun _ => rfl]
  have hset : (s.setAck b).commandResult i = ((bodyOf i u).run u).1 (((bodyOf i u).run u).2.setAck b) :=
    congrArg (fun r => r.1 r.2) hrun
  obtain ⟨_, _, _, -, hf⟩ := (bodyOf_ends_registerWrite i u).run u
  rw [hset]
  exact hf.setAck _ b

/-- Settles O41: neither a micro-operation nor an accepted command's program and register writes read the flag. -/
theorem noCommandDependsOnTheFlag : Obligations.NoCommandDependsOnTheFlag := by
  intro i s t b h
  change ∃ t', exec i (s.setAck b) = .next t' ∧ t = t'.setAck t.ackf
  cases exec_cases h with
  | uop u hu => exact ⟨_, exec_uop hu _, by rw [s.perform_setAck]; rfl⟩
  | notAccepted hi hs => exact ⟨_, exec_command_busy hi hs, rfl⟩
  | completed hi hs ho => exact ⟨_, exec_command_accepted hi hs ho, s.commandResult_setAck i b⟩

end Sys2Proof.Machine
end

section
/-! What a step can do, said once, and what every step keeps. -/

namespace Sys2Proof.Machine

open Sys2Proof

/-! ### What the two ports' words stand for -/

theorem whenUnusedZero_ok {unused : List Byte} {x : Except DecodeError Instr} {i : Instr}
    (h : whenUnusedZero unused x = .ok i) : x = .ok i := by
  unfold whenUnusedZero at h
  split at h
  · exact h
  · cases h

theorem wrtOfLen_ok {depth : Nat} {a : PeerAddr} {n : Byte} {i : Instr} (h : wrtOfLen depth a n = .ok i) :
    i = .wrt a n := by
  unfold wrtOfLen at h
  split at h <;> cases h
  rfl

theorem rdnOfLen_ok {depth : Nat} {a : PeerAddr} {n : Byte} {i : Instr} (h : rdnOfLen depth a n = .ok i) :
    i = .rdn a n := by
  unfold rdnOfLen at h
  split at h
  · cases h
  · split at h <;> cases h
    rfl

/-- The command port's words stand for commands (R73). -/
theorem decode_cmd_isCommand {depth : Nat} {w : CmdWord} {i : Instr} (h : decode depth (.cmd w) = .ok i) :
    i.isCommand = true := by
  simp only [decode, decodeCmd] at h
  split at h
  · split at h
    · split at h <;> replace h := whenUnusedZero_ok h
      case h_5 => rw [wrtOfLen_ok h]; rfl
      case h_8 => rw [rdnOfLen_ok h]; rfl
      all_goals cases h; rfl
    · cases h
  · cases h

/-- The Pin Driver port's words stand for micro-operations (R76). -/
theorem decode_uop {depth : Nat} {w : UopWord} {i : Instr} (h : decode depth (.uop w) = .ok i) :
    ∃ u, uopOf i = some u := by
  simp only [decode, decodeUop] at h
  split at h <;> cases h <;> exact ⟨_, rfl⟩

theorem decodeUop_uopWord (u : Uop) : ∃ i, decodeUop (uopWord u) = .ok i := by
  cases u <;> exact ⟨_, rfl⟩

/-! ### Steps of a ready block -/

theorem step_of_instr {s t : State} {i : Instr} (h : s.fetch = .instr i t) : step s = exec i t := by
  rw [step, h]

theorem step_of_outcome {s : State} {o : Host.Outcome State Fault Refusal} (h : s.fetch = .outcome o) : step s = o := by
  rw [step, h]

section ready

variable {s : State} (hport : s.uopPort = none) (hs : s.seq = .ready)
include hport hs

theorem fetch_ready : s.fetch = s.readyFetch := by
  rw [State.fetch, hport, hs]

theorem step_waiting (hh : s.host = []) : step s = .next s :=
  step_of_outcome (by rw [fetch_ready hport hs, State.readyFetch, hh])

theorem step_quiet {hs' : List HostAction} (hh : s.host = .quiet :: hs') : step s = .next (s.setHost hs') :=
  step_of_outcome (by rw [fetch_ready hport hs, State.readyFetch, hh])

theorem step_writeBuf {j : Nat} {v : Byte} {hs' : List HostAction} (hh : s.host = .writeBuf j v :: hs') :
    step s = (s.setHost hs').hostWriteBuf j v :=
  step_of_outcome (by rw [fetch_ready hport hs, State.readyFetch, hh])

variable {w : CmdWord} {hs' : List HostAction}

theorem step_command {i : Instr} (hh : s.host = .command w :: hs') (hi : decode s.cfg.bufDepth (.cmd w) = .ok i) :
    step s = exec i (s.setHost hs') :=
  step_of_instr (by simp only [fetch_ready hport hs, State.readyFetch, hh, hi])

theorem step_launch {i : Instr} (hh : s.host = .launch w :: hs') (hi : decode s.cfg.bufDepth (.cmd w) = .ok i) :
    step s = (s.setHost hs').accept i :=
  step_of_outcome (by simp only [fetch_ready hport hs, State.readyFetch, hh, hi])

theorem step_undecodable {e : DecodeError} (hh : s.host = .command w :: hs' ∨ s.host = .launch w :: hs')
    (he : decode s.cfg.bufDepth (.cmd w) = .error e) : step s = .refused (.undecodable e) := by
  rcases hh with hh | hh <;>
    exact step_of_outcome (by simp only [fetch_ready hport hs, State.readyFetch, hh, he])

end ready

/-! ### A word offered to the Pin Driver (log 15) -/

section offered

variable {s : State} {w : UopWord} (hport : s.uopPort = some w)
include hport

theorem step_offered (hs : s.seq = .ready) {i : Instr} (hi : decode s.cfg.bufDepth (.uop w) = .ok i) :
    step s = exec i (s.setUopPort none) :=
  step_of_instr (by simp only [State.fetch, hport, hs, State.uopFetch, hi])

theorem step_offered_undecodable (hs : s.seq = .ready) {e : DecodeError}
    (he : decode s.cfg.bufDepth (.uop w) = .error e) : step s = .refused (.undecodable e) :=
  step_of_outcome (by simp only [State.fetch, hport, hs, State.uopFetch, he])

theorem step_secondWriter {c : Instr} {k : Nat} {answers : List Level} (hs : s.seq = .run c k answers) :
    step s = .refused .secondWriter :=
  step_of_outcome (by rw [State.fetch, hport, hs])

end offered

/-! ### Steps of a running block -/

theorem step_running {s : State} {c : Instr} {k : Nat} {answers : List Level} (hport : s.uopPort = none)
    (hs : s.seq = .run c k answers) : step s = s.busyStep c k answers :=
  step_of_outcome (by rw [State.fetch, hport, hs])

/-- What a step does where it answers a next state. -/
inductive StepCase (s : State) : State → Prop
  | waits (hs : List HostAction) : s.seq = .ready → s.uopPort = none → StepCase s (s.setHost hs)
  | writesBuf (hs : List HostAction) (j : Nat) (v : Byte) : s.seq = .ready → s.uopPort = none →
      StepCase s ((s.setHost hs).setBuf (s.buf.set j v))
  | runs (hs : List HostAction) (i : Instr) {t : State} : s.seq = .ready → s.uopPort = none → i.isCommand = true →
      exec i (s.setHost hs) = .next t → StepCase s t
  | accepts (hs : List HostAction) (i : Instr) : s.seq = .ready → s.uopPort = none → i.isCommand = true →
      (s.setHost hs).objection i = none →
      StepCase s (((s.setHost hs).loadOperands (commandWord i)).setSeq (.run i 0 []))
  | performs (u : Uop) : s.uopPort ≠ none → StepCase s ((s.setUopPort none).perform u)
  | issues (hs : List HostAction) (c : Instr) (k : Nat) (answers : List Level) : s.seq = .run c k answers →
      s.uopPort = none → StepCase s ((s.setHost hs).issueNext c k answers)

theorem stepCase_of_ready {s t : State} (hport : s.uopPort = none) (hs : s.seq = .ready) (h : step s = .next t) :
    StepCase s t := by
  cases hh : s.host with
  | nil =>
    rw [step_waiting hport hs hh] at h
    cases h
    exact (StepCase.waits s.host hs hport : StepCase s s)
  | cons a hs' =>
    cases a with
    | quiet =>
      rw [step_quiet hport hs hh] at h
      cases h
      exact .waits hs' hs hport
    | writeBuf j v =>
      rw [step_writeBuf hport hs hh, State.hostWriteBuf] at h
      split at h <;> cases h
      exact .writesBuf hs' j v hs hport
    | command w =>
      cases hi : decode s.cfg.bufDepth (.cmd w) with
      | error e => rw [step_undecodable hport hs (.inl hh) hi] at h; cases h
      | ok i =>
        rw [step_command hport hs hh hi] at h
        exact .runs hs' i hs hport (decode_cmd_isCommand hi) h
    | launch w =>
      cases hi : decode s.cfg.bufDepth (.cmd w) with
      | error e => rw [step_undecodable hport hs (.inr hh) hi] at h; cases h
      | ok i =>
        rw [step_launch hport hs hh hi, State.accept] at h
        split at h <;> cases h
        exact .accepts hs' i hs hport (decode_cmd_isCommand hi) ‹_›

theorem stepCase_of_running {s t : State} {c : Instr} {k : Nat} {answers : List Level} (hport : s.uopPort = none)
    (hs : s.seq = .run c k answers) (h : step s = .next t) : StepCase s t := by
  rw [step_running hport hs, State.busyStep] at h
  split at h
  · cases h
  · split at h <;> cases h
    case h_5 => exact .issues s.host c k answers hs hport
    all_goals exact .issues _ c k answers hs hport

theorem stepCase_of_offered {s t : State} {w : UopWord} (hport : s.uopPort = some w) (h : step s = .next t) :
    StepCase s t := by
  cases hs : s.seq with
  | run c k answers => rw [step_secondWriter hport hs] at h; cases h
  | ready =>
    cases hi : decode s.cfg.bufDepth (.uop w) with
    | error e => rw [step_offered_undecodable hport hs hi] at h; cases h
    | ok i =>
      obtain ⟨u, hu⟩ := decode_uop hi
      rw [step_offered hport hs hi, exec_uop hu] at h
      cases h
      exact .performs u (by simp [hport])

theorem step_cases {s t : State} (h : step s = .next t) : StepCase s t := by
  cases hport : s.uopPort with
  | some w => exact stepCase_of_offered hport h
  | none =>
    cases hs : s.seq with
    | ready => exact stepCase_of_ready hport hs h
    | run c k answers => exact stepCase_of_running hport hs h

end Sys2Proof.Machine
end

section
/-! A running command's next micro-operation (R33), and what every step keeps. -/

namespace Sys2Proof.Machine

open Sys2Proof

/-! ### One micro-operation on -/

/-- A program that begins with a micro-operation has not ended. -/
theorem Prog.ret_or_inProgress {α : Type} (p : Prog α) : (∃ a, p = .ret a) ∨ p.inProgress 0 [] = true := by
  cases p
  case ret a => exact .inl ⟨a, rfl⟩
  all_goals exact .inr rfl

@[simp] theorem Prog.issued_zero {α : Type} (p : Prog α) (bs : List Level) : p.issued 0 bs = [] := by
  cases p <;> rfl

@[simp] theorem Prog.after_zero {α : Type} (p : Prog α) (bs : List Level) : p.after 0 bs = p := by
  cases p <;> rfl

/-- From `RUN(c, k)` a program goes on as what is left of it does. -/
theorem Prog.inProgress_add {α : Type} {p : Prog α} {k : Nat} {answers : List Level}
    (h : p.inProgress k answers = true) (j : Nat) (bs : List Level) :
    p.after (k + j) (answers ++ bs) = (p.after k answers).after j bs ∧
      p.issued (k + j) (answers ++ bs) = p.issued k answers ++ (p.after k answers).issued j bs ∧
      p.inProgress (k + j) (answers ++ bs) = (p.after k answers).inProgress j bs := by
  induction p generalizing k answers with
  | ret a => cases k <;> cases h
  | issue u rest ih =>
    cases k with
    | zero =>
      cases answers with
      | nil => simp [Prog.after]
      | cons b bs => cases h
    | succ k =>
      obtain ⟨hafter, hissued, hin⟩ := ih h
      rw [Nat.succ_add]
      exact ⟨hafter, congrArg (u :: ·) hissued, hin⟩
  | sample rest ih =>
    cases k with
    | zero =>
      cases answers with
      | nil => simp [Prog.after]
      | cons b bs => cases h
    | succ k =>
      cases answers with
      | nil => cases h
      | cons b bs' =>
        obtain ⟨hafter, hissued, hin⟩ := ih b h
        rw [Nat.succ_add]
        exact ⟨hafter, congrArg (Uop.dRead :: ·) hissued, hin⟩

section issueNext

variable {s : State} {c : Instr} {k : Nat} {answers : List Level}

theorem State.issueNext_ret {f : State → State} (hp : (bodyOf c s).after k answers = .ret f) :
    s.issueNext c k answers = (f s).setSeq .ready := by
  rw [State.issueNext, hp]

theorem State.issueNext_issue {u : Uop} {rest : Prog (State → State)}
    (hp : (bodyOf c s).after k answers = .issue u rest) :
    s.issueNext c k answers = (s.perform u).settle c (k + 1) answers rest := by
  rw [State.issueNext, hp]

theorem State.issueNext_sample {rest : Level → Prog (State → State)}
    (hp : (bodyOf c s).after k answers = .sample rest) :
    s.issueNext c k answers =
      (s.perform .dRead).settle c (k + 1) (answers ++ [(s.perform .dRead).uopAns])
        (rest (s.perform .dRead).uopAns) := by
  rw [State.issueNext, hp]

/-- `RUN(c, k)` issues one micro-operation `u` and stands before the rest of the program (R33, R61). -/
theorem State.issueNext_inProgress (h : (bodyOf c s).inProgress k answers = true) :
    ∃ u rest answers', s.issueNext c k answers = (s.perform u).settle c (k + 1) answers' rest ∧
      (bodyOf c s).after (k + 1) answers' = rest ∧
      (bodyOf c s).issued (k + 1) answers' = (bodyOf c s).issued k answers ++ [u] ∧
      (bodyOf c s).inProgress (k + 1) answers' = rest.inProgress 0 [] ∧
      ∀ q, ((bodyOf c s).after k answers).run (s.setSeq q) = rest.run ((s.perform u).setSeq q) := by
  have hrest : ((bodyOf c s).after k answers).inProgress 0 [] = true := by
    rw [← (Prog.inProgress_add h 0 []).2.2, List.append_nil]
    exact h
  cases hp : (bodyOf c s).after k answers with
  | ret f => rw [hp] at hrest; cases hrest
  | issue u rest =>
    obtain ⟨hafter, hissued, hin⟩ := Prog.inProgress_add h 1 []
    rw [List.append_nil, hp] at hafter hissued hin
    exact ⟨u, rest, answers, State.issueNext_issue hp, hafter.trans (rest.after_zero []),
      by simpa [Prog.issued] using hissued, hin, fun q => by rw [Prog.run, s.perform_setSeq]⟩
  | sample rest =>
    let b := (s.perform .dRead).uopAns
    obtain ⟨hafter, hissued, hin⟩ := Prog.inProgress_add h 1 [b]
    rw [hp] at hafter hissued hin
    exact ⟨.dRead, rest b, answers ++ [b], State.issueNext_sample hp, hafter.trans ((rest b).after_zero []),
      by simpa [Prog.issued] using hissued, hin, fun q => by rw [Prog.run, s.perform_setSeq]; rfl⟩

end issueNext

@[simp] theorem State.settle_ret (s : State) (c : Instr) (k : Nat) (answers : List Level) (f : State → State) :
    s.settle c k answers (.ret f) = (f s).setSeq .ready := rfl

theorem State.settle_inProgress {rest : Prog (State → State)} (h : rest.inProgress 0 [] = true) (s : State) (c : Instr)
    (k : Nat) (answers : List Level) : s.settle c k answers rest = s.setSeq (.run c k answers) := by
  cases rest
  case ret => cases h
  all_goals rfl

/-- Where a program goes on or ends with a register write, the step adds nothing to what it has issued. -/
theorem State.settle_frame {rest : Prog (State → State)} (h : rest.ends fun f _ => RegisterWrite f) (s : State)
    (c : Instr) (k : Nat) (answers : List Level) :
    (s.settle c k answers rest).cfg = s.cfg ∧ (s.settle c k answers rest).log = s.log := by
  cases rest
  case ret f => exact ⟨h.cfg s, h.log s⟩
  all_goals exact ⟨rfl, rfl⟩

/-- Whatever the position, a running command keeps the configuration and only adds to the trace (R22, R42). -/
theorem State.issueNext_frame (s : State) (c : Instr) (k : Nat) (answers : List Level) :
    (s.issueNext c k answers).cfg = s.cfg ∧ ∃ es : List Event, (s.issueNext c k answers).log = es.reverse ++ s.log := by
  have hw := (bodyOf_ends_registerWrite c s).after k answers
  have hperform (u : Uop) {rest : Prog (State → State)} (hrest : rest.ends fun f _ => RegisterWrite f)
      (bs : List Level) :
      ((s.perform u).settle c (k + 1) bs rest).cfg = s.cfg ∧
        ∃ es : List Event, ((s.perform u).settle c (k + 1) bs rest).log = es.reverse ++ s.log := by
    obtain ⟨hcfg, hlog⟩ := State.settle_frame hrest (s.perform u) c (k + 1) bs
    obtain ⟨e, he, -⟩ := s.perform_log u
    exact ⟨hcfg.trans (s.perform_cfg u), [e], hlog.trans he⟩
  cases hp : (bodyOf c s).after k answers <;> rw [hp] at hw
  case ret f =>
    rw [State.issueNext_ret hp]
    exact ⟨hw.cfg s, [], hw.log s⟩
  case issue u rest =>
    rw [State.issueNext_issue hp]
    exact hperform u (rest := rest) hw answers
  case sample rest =>
    rw [State.issueNext_sample hp]
    exact hperform .dRead (hw _) _

/-- R22, R42: a step keeps the configuration and only adds to the trace. -/
theorem step_frame {s t : State} (h : step s = .next t) :
    t.cfg = s.cfg ∧ ∃ es : List Event, t.log = es.reverse ++ s.log := by
  cases step_cases h with
  | waits => exact ⟨rfl, [], rfl⟩
  | writesBuf => exact ⟨rfl, [], rfl⟩
  | accepts => exact ⟨rfl, [], rfl⟩
  | runs hs i _ _ _ hexec => exact exec_frame (s := s.setHost hs) hexec
  | performs u =>
    obtain ⟨e, he, -⟩ := (s.setUopPort none).perform_log u
    exact ⟨(s.setUopPort none).perform_cfg u, [e], he⟩
  | issues hs c k answers => exact (s.setHost hs).issueNext_frame c k answers

/-- Settles O38: every kind of step keeps the configuration. -/
theorem noStepChangesTheConfiguration : Obligations.NoStepChangesTheConfiguration :=
  fun _ _ h => (step_frame h).1

theorem bodyOf_setHost (c : Instr) (s : State) (hs : List HostAction) : bodyOf c (s.setHost hs) = bodyOf c s := by
  cases c <;> rfl

/-- Inside a command a step issues exactly one micro-operation (R33). -/
theorem issueNext_log_length {s : State} {c : Instr} {k : Nat} {answers : List Level}
    (h : (bodyOf c s).inProgress k answers = true) : (s.issueNext c k answers).log.length = s.log.length + 1 := by
  obtain ⟨u, rest, answers', ht, hafter, -⟩ := State.issueNext_inProgress h
  have hw := (bodyOf_ends_registerWrite c s).after (k + 1) answers'
  obtain ⟨e, he, -⟩ := s.perform_log u
  rw [hafter] at hw
  rw [ht, (State.settle_frame hw _ _ _ _).2, he, List.length_cons]

theorem uopOutput_of_log {s t : State} {es : List Event} (h : t.log = es.reverse ++ s.log) :
    t.uopOutput = s.uopOutput ++ es.map fun e => uopWord e.op := by
  simp [State.uopOutput, State.trace, h]

/-- Settles O56: the words added are those of the trace's new items, and inside a command there is one new item. -/
theorem stepsPutOutOnlyMicroOperationWords : Obligations.StepsPutOutOnlyMicroOperationWords := by
  intro s t h
  obtain ⟨-, es, hes⟩ := step_frame h
  refine ⟨_, uopOutput_of_log hes, ?words, ?one⟩
  case words =>
    intro w hw
    obtain ⟨e, -, rfl⟩ := List.mem_map.1 hw
    exact decodeUop_uopWord e.op
  case one =>
    intro hinv hrun
    cases step_cases h with
    | waits _ hs | writesBuf _ _ _ hs | runs _ _ hs | accepts _ _ hs => exact absurd hs hrun
    | performs _ hport => exact absurd hinv.port_empty hport
    | issues hs c k answers hseq =>
      obtain ⟨b, -, hin, -⟩ := hinv.in_command c k answers hseq
      have hlen := issueNext_log_length (s := s.setHost hs) (by rw [bodyOf_setHost]; exact hin)
      rw [hes] at hlen
      simp only [List.length_append, List.length_reverse, State.setHost_log] at hlen
      rw [List.length_map]
      omega

end Sys2Proof.Machine
end

section
/-! The invariant of the machine (R22, R29, R33, R39, R41, R61, R150, R202): it holds at reset, and every step keeps
it. -/

namespace Sys2Proof.Machine

open Sys2Proof

theorem clock_output_of_atRest {scl sda : Pin} (h : AtRest (scl, sda)) : scl.mode = .output := by
  rcases h with h | h <;> rw [(Prod.mk.inj h).1]

/-- Between two commands the invariant says no more than this. -/
theorem State.inv_of_ready {s : State} (hcfg : s.cfg.wf) (hbuf : s.buf.length = s.cfg.bufDepth)
    (hport : s.uopPort = none) (hseq : s.seq = .ready) (hpins : AtRest (s.scl, s.sda)) : s.Inv where
  cfg_legal := hcfg
  buf_depth := hbuf
  port_empty := hport
  clock_output := clock_output_of_atRest hpins
  at_rest _ := (busState_atRest_iff s).2 hpins
  in_command _ _ _ hrun := by rw [hseq] at hrun; cases hrun

/-- Settles O36: reset leaves a ready block with both pins high. -/
theorem invariantHoldsAtReset : Obligations.InvariantHoldsAtReset := by
  have hreset (c : Config) (hc : c.wf) : (State.resetWith c).Inv :=
    State.inv_of_ready hc List.length_replicate rfl rfl (.inl rfl)
  exact ⟨hreset Config.default (by decide), hreset⟩

theorem State.Inv.atRest {s : State} (h : s.Inv) (hs : s.seq = .ready) : AtRest (s.scl, s.sda) :=
  (busState_atRest_iff s).1 (h.at_rest hs)

/-- The host's coming actions have no part in the invariant. -/
theorem State.Inv.setHost {s : State} (h : s.Inv) (hs : List HostAction) : (s.setHost hs).Inv where
  cfg_legal := h.cfg_legal
  buf_depth := h.buf_depth
  port_empty := h.port_empty
  clock_output := h.clock_output
  at_rest := h.at_rest
  in_command c k answers hrun := by rw [bodyOf_setHost]; exact h.in_command c k answers hrun

/-- A command completed in one step keeps the invariant. -/
theorem State.Inv.commandResult {s : State} {i : Instr} (h : s.Inv) (hi : i.isCommand = true) (hs : s.seq = .ready)
    (ho : s.objection i = none) : (s.commandResult i).Inv := by
  obtain ⟨b, hb⟩ := neededBusState_of_isCommand hi
  obtain ⟨f, ans, n, es, hf, -, ht⟩ := State.commandResult_of_ends (bodyOf_ends_registerWrite i (s.loadOperands _))
  refine State.inv_of_ready ?_ ?_ ?_ ?_ (State.commandResult_atRest hb ho).1 <;> rw [ht]
  · rw [hf.cfg]; exact h.cfg_legal
  · rw [hf.buf_length, hf.cfg]; exact h.buf_depth
  · rw [hf.uopPort]; exact h.port_empty
  · exact hf.seq_ready _ hs

/-- A command's program begins with a micro-operation. -/
theorem bodyOf_inProgress {i : Instr} (hi : i.isCommand = true) (s : State) : (bodyOf i s).inProgress 0 [] = true := by
  cases i <;> cases hi <;> rfl

/-- An accepted command stands before its first micro-operation, on the pins of the bus state it needs. -/
theorem State.Inv.accepted {s : State} {i : Instr} (h : s.Inv) (hi : i.isCommand = true) (ho : s.objection i = none) :
    ((s.loadOperands (commandWord i)).setSeq (.run i 0 [])).Inv where
  cfg_legal := h.cfg_legal
  buf_depth := h.buf_depth
  port_empty := h.port_empty
  clock_output := h.clock_output
  at_rest hs := by cases hs
  in_command c k answers hrun := by
    cases hrun
    obtain ⟨b, hb⟩ := neededBusState_of_isCommand hi
    refine ⟨b, hb, bodyOf_inProgress hi _, ?_⟩
    rw [Prog.issued_zero]
    exact Prod.ext_iff.2 (pins_of_objection_none hb ho)

theorem bodyOf_ran (i : Instr) (s : State) (scl sda : Pin) (ans : Level) (n : Nat) (es : List Event) :
    bodyOf i (s.ran scl sda ans n es) = bodyOf i s := by
  cases i <;> rfl

theorem bodyOf_setSeq (i : Instr) (s : State) (q : Seq) : bodyOf i (s.setSeq q) = bodyOf i s := by
  cases i <;> rfl

theorem bodyOf_perform (i : Instr) (s : State) (u : Uop) : bodyOf i (s.perform u) = bodyOf i s := by
  obtain ⟨ans, n, e, hu, -⟩ := s.perform_ran u
  rw [hu, bodyOf_ran]

theorem sclAfter_output {p : Pin} (h : p.mode = .output) (u : Uop) : (sclAfter u p).mode = .output := by
  cases u
  case cOut => rfl
  all_goals exact h

/-- At the end of a command's path its register writes leave the invariant, the pins at rest (R41, R150). -/
theorem State.inv_of_ended {s : State} {f : State → State} (hf : RegisterWrite f) (hcfg : s.cfg.wf)
    (hbuf : s.buf.length = s.cfg.bufDepth) (hport : s.uopPort = none) (hpins : AtRest (s.scl, s.sda)) :
    ((f s).setSeq .ready).Inv :=
  State.inv_of_ready (by rw [State.setSeq_cfg, hf.cfg]; exact hcfg)
    (by rw [State.setSeq_buf, State.setSeq_cfg, hf.buf_length, hf.cfg]; exact hbuf)
    (by rw [State.setSeq_uopPort, hf.uopPort]; exact hport) rfl
    (by rw [State.setSeq_scl, State.setSeq_sda, hf.scl, hf.sda]; exact hpins)

/-- Inside a command, a step goes on along the program's path, and at its end the pins are at rest (R33, R41, R61). -/
theorem State.Inv.issueNext {s : State} {c : Instr} {k : Nat} {answers : List Level} (h : s.Inv)
    (hs : s.seq = .run c k answers) : (s.issueNext c k answers).Inv := by
  obtain ⟨b, hb, hin, hpins⟩ := h.in_command c k answers hs
  obtain ⟨u, rest, answers', ht, hafter, hissued, hin', -⟩ := State.issueNext_inProgress hin
  obtain ⟨ans, n, e, hu, -⟩ := s.perform_ran u
  have hpins' : ((s.perform u).scl, (s.perform u).sda) =
      pinsAfter (restPin b) (restPin b) ((bodyOf c s).issued (k + 1) answers') := by
    rw [hissued, pinsAfter_append, ← hpins, hu]
    rfl
  have hcfg : (s.perform u).cfg.wf := by rw [hu]; exact h.cfg_legal
  have hbuf : (s.perform u).buf.length = (s.perform u).cfg.bufDepth := by rw [hu]; exact h.buf_depth
  have hport : (s.perform u).uopPort = none := by rw [hu]; exact h.port_empty
  rw [ht]
  rcases rest.ret_or_inProgress with ⟨f, rfl⟩ | hrest
  case inl =>
    have hends := ((bodyOf_ends_registerWrite c s).and (bodyOf_leads hb s)).after (k + 1) answers'
    rw [hafter] at hends
    obtain ⟨hf, -, hrest⟩ := hends
    rw [List.append_nil, ← hpins'] at hrest
    exact State.inv_of_ended hf hcfg hbuf hport hrest
  case inr =>
    rw [State.settle_inProgress hrest]
    refine ⟨hcfg, hbuf, hport, ?clock, (by intro hready; cases hready), fun c' k' bs hrun => ?command⟩
    case clock => rw [hu]; exact sclAfter_output h.clock_output u
    case command =>
      cases hrun
      rw [bodyOf_setSeq, bodyOf_perform]
      exact ⟨b, hb, hin'.trans hrest, hpins'⟩

/-- Settles O37: each kind of step keeps it; inside a command the pins follow the program's path, which ends at rest. -/
theorem everyStepKeepsTheInvariant : Obligations.EveryStepKeepsTheInvariant := by
  intro s t h hstep
  cases step_cases hstep with
  | waits hs => exact h.setHost hs
  | writesBuf hs j v hready hport =>
    exact State.inv_of_ready h.cfg_legal ((List.length_set ..).trans h.buf_depth) hport hready (h.atRest hready)
  | runs hs i hready _ hi hexec =>
    cases exec_cases hexec with
    | uop u hu => rw [uopOf_of_isCommand hi] at hu; cases hu
    | notAccepted => exact h.setHost hs
    | completed _ _ ho => exact (h.setHost hs).commandResult hi hready ho
  | accepts hs i _ _ hi ho => exact (h.setHost hs).accepted hi ho
  | performs _ hport => exact absurd h.port_empty hport
  | issues hs c k answers hseq => exact (h.setHost hs).issueNext hseq

end Sys2Proof.Machine
end

section
/-! The two grains of a command (log 1): accepted, and then run one micro-operation a step, it goes the way of the
command run in one step (R33, R57, R61). -/

namespace Sys2Proof.Machine

open Sys2Proof

/-! ### Several steps -/

theorem stepTimes_one (s : State) : stepTimes 1 s = step s := by
  rw [stepTimes]
  cases step s <;> rfl

/-- The last of `n + 1` steps is one from where the first `n` lead. -/
theorem stepTimes_succ {n : Nat} {s t : State} (h : stepTimes n s = .next t) : stepTimes (n + 1) s = step t := by
  induction n generalizing s with
  | zero => cases h; exact stepTimes_one _
  | succ n ih =>
    cases hs : step s <;> simp only [stepTimes, hs] at h ⊢
    · exact ih h
    · cases h
    · cases h

/-- The first of `n + 1` steps, and then the others. -/
theorem stepTimes_of_step {n : Nat} {s t : State} (h : step s = .next t) : stepTimes (1 + n) s = stepTimes n t := by
  rw [Nat.add_comm, stepTimes, h]

/-- A program that has not ended adds to the trace when it is run on. -/
theorem Prog.run_log_lt {α : Type} {p : Prog α} (h : p.inProgress 0 [] = true) (s : State) :
    s.log.length < (p.run s).2.log.length := by
  have hends : p.ends fun _ us => us ≠ [] := by
    cases p with
    | ret a => cases h
    | issue u rest => exact Prog.ends_of_forall (p := rest) fun _ us => List.cons_ne_nil u us
    | sample rest => exact fun b => Prog.ends_of_forall (p := rest b) fun _ us => List.cons_ne_nil _ us
  obtain ⟨ans, n, es, hrun, hes⟩ := hends.run s
  have hpos : 0 < es.length := by simpa [uopsOf, List.length_pos_iff] using hes
  rw [hrun, State.ran_log, List.length_append, List.length_reverse]
  omega

/-! ### After `m` micro-operations -/

/-- A ready block that no one but a command would move: nothing on either port, the premises on the environment met. -/
structure State.Undisturbed (v : State) : Prop where
  ready : v.seq = .ready
  port_empty : v.uopPort = none
  premises : v.environmentObjection = none
  host_quiet : v.host = []

/-- `x` is where the command `i`, accepted in `v`, stands after `m` micro-operations with the samples `answers`: in
`RUN(i, m)`, and what is left of the program ends as the whole of it does. -/
structure Underway (i : Instr) (v : State) (m : Nat) (answers : List Level) (x : State) : Prop where
  inProgress : (bodyOf i v).inProgress m answers = true
  run_rest : ((bodyOf i v).after m answers).run (x.setSeq .ready) = (bodyOf i v).run v
  ran : ∃ scl sda ans n es, es.length = m ∧ x = (v.ran scl sda ans n es).setSeq (.run i m answers)

/-- A step inside a command, with the host quiet (R33). -/
theorem step_issues {s : State} {c : Instr} {k : Nat} {answers : List Level} (hport : s.uopPort = none)
    (hs : s.seq = .run c k answers) (henv : s.environmentObjection = none) (hhost : s.host = []) :
    step s = .next (s.issueNext c k answers) := by
  simp only [step_running hport hs, State.busyStep, henv, hhost]

theorem Underway.start {i : Instr} {v : State} (hv : v.Undisturbed) (hi : i.isCommand = true) :
    Underway i v 0 [] (v.setSeq (.run i 0 [])) where
  inProgress := bodyOf_inProgress hi v
  run_rest := by
    have hstart : (v.setSeq (.run i 0 [])).setSeq .ready = v := by rw [← hv.ready]; rfl
    rw [hstart, Prog.after_zero]
  ran := ⟨_, _, _, _, [], rfl, congrArg (State.setSeq · _) v.ran_nil.symm⟩

/-- One micro-operation more: the command goes on, or it was the last one and the step ends where the whole command
does. -/
theorem Underway.next {i : Instr} {v x : State} {m : Nat} {answers : List Level} (h : Underway i v m answers x)
    (hv : v.Undisturbed) :
    (∃ y answers', step x = .next y ∧ Underway i v (m + 1) answers' y ∧
      v.log.length + (m + 1) < ((bodyOf i v).run v).2.log.length) ∨
    (step x = .next (((bodyOf i v).run v).1 ((bodyOf i v).run v).2) ∧
      ((bodyOf i v).run v).2.log.length = v.log.length + (m + 1)) := by
  obtain ⟨scl, sda, ans, n, es, hes, hx⟩ := h.ran
  have hstep : step x = .next (x.issueNext i m answers) := by
    rw [hx]
    exact step_issues hv.port_empty rfl hv.premises hv.host_quiet
  have hbody : bodyOf i x = bodyOf i v := by rw [hx, bodyOf_setSeq, bodyOf_ran]
  have hin : (bodyOf i x).inProgress m answers = true := by rw [hbody]; exact h.inProgress
  obtain ⟨u, rest, answers', ht, hafter, -, hin', hrun⟩ := State.issueNext_inProgress hin
  rw [hbody] at hafter hin' hrun
  replace hrun := (hrun .ready).symm.trans h.run_rest
  obtain ⟨ans', n', e, hu, -⟩ := x.perform_ran u
  have hlog : ((x.perform u).setSeq .ready).log.length = v.log.length + (m + 1) := by
    rw [hu, hx]
    simp [hes]
    omega
  rcases rest.ret_or_inProgress with ⟨f, rfl⟩ | hrest
  case inl =>
    have hf := (bodyOf_ends_registerWrite i v).after (m + 1) answers'
    rw [hafter] at hf
    refine .inr ⟨?_, by rw [← hrun]; exact hlog⟩
    rw [hstep, ht, State.settle_ret, ← hrun, Prog.run_ret]
    exact congrArg Host.Outcome.next (RegisterWrite.setSeq_ready hf _).symm
  case inr =>
    have hran : (x.perform u).setSeq (.run i (m + 1) answers') =
        (v.ran (sclAfter u x.scl) (sdaAfter u x.sda) ans' (n + n') (es ++ [e])).setSeq (.run i (m + 1) answers') := by
      rw [← State.ran_ran v scl sda _ _ ans, hu, hx]
      rfl
    refine .inl ⟨(x.perform u).setSeq (.run i (m + 1) answers'), answers', ?step, ?underway, ?length⟩
    case step => rw [hstep, ht, State.settle_inProgress hrest]
    case underway =>
      exact ⟨hin'.trans hrest, by rw [hafter]; exact hrun, _, _, _, _, es ++ [e], by simp [hes], hran⟩
    case length =>
      rw [← hrun, ← hlog]
      exact Prog.run_log_lt hrest _

/-- As long as the command has not issued its whole trace, `m` steps bring it to `RUN(i, m)`. -/
theorem underway_of_lt {i : Instr} {v : State} (hi : i.isCommand = true) (hv : v.Undisturbed) (m : Nat)
    (hm : v.log.length + m < ((bodyOf i v).run v).2.log.length) :
    ∃ x answers, stepTimes m (v.setSeq (.run i 0 [])) = .next x ∧ Underway i v m answers x := by
  induction m with
  | zero => exact ⟨_, [], rfl, Underway.start hv hi⟩
  | succ m ih =>
    obtain ⟨x, answers, hx, hu⟩ := ih (by omega)
    rcases hu.next hv with ⟨y, answers', hy, hu', -⟩ | ⟨-, hend⟩
    · exact ⟨y, answers', (stepTimes_succ hx).trans hy, hu'⟩
    · omega

/-! ### From the host's action on -/

section presented

variable {s : State} {w : CmdWord} {i : Instr} (hport : s.uopPort = none) (hs : s.seq = .ready)
  (hi : decode s.cfg.bufDepth (.cmd w) = .ok i)
include hport hs hi

theorem step_presented_command : step { s with host := [.command w] } = exec i (s.setHost []) :=
  step_command (s := s.setHost [.command w]) hport hs rfl hi

theorem step_presented_launch : step { s with host := [.launch w] } = (s.setHost []).accept i :=
  step_launch (s := s.setHost [.launch w]) hport hs rfl hi

/-- What a next state of the whole command says: it was accepted, and both grains start from the state `v` with the
operands loaded. -/
theorem presented_command_next {t : State} (h : step { s with host := [.command w] } = .next t) :
    ∃ v : State, v.Undisturbed ∧ v.log = s.log ∧
      t = ((bodyOf i v).run v).1 ((bodyOf i v).run v).2 ∧ t.log = ((bodyOf i v).run v).2.log ∧
      step { s with host := [.launch w] } = .next (v.setSeq (.run i 0 [])) := by
  have hcmd := decode_cmd_isCommand hi
  rw [step_presented_command hport hs hi] at h
  cases exec_cases h with
  | uop u hu => rw [uopOf_of_isCommand hcmd] at hu; cases hu
  | notAccepted _ hrun => exact absurd hs hrun
  | completed _ _ ho =>
    let v := (s.setHost []).loadOperands (commandWord i)
    obtain ⟨b, hb⟩ := neededBusState_of_isCommand hcmd
    obtain ⟨_, _, _, -, hf⟩ := (bodyOf_ends_registerWrite i v).run v
    refine ⟨v, ⟨hs, hport, (objection_none_inv hb ho).1, rfl⟩, rfl, rfl, hf.log _, ?_⟩
    rw [step_presented_launch hport hs hi, State.accept, ho]

end presented

/-- Settles O53: the steps follow the program to its last micro-operation; a refusal is that of `objection` in both
grains. -/
theorem microOperationStepsEqualTheWholeCommand : Obligations.MicroOperationStepsEqualTheWholeCommand := by
  intro s w hport hs
  cases hi : decode s.cfg.bufDepth (.cmd w) with
  | error e =>
    have hcommand := step_undecodable (s := s.setHost [.command w]) hport hs (.inl rfl) hi
    have hlaunch := step_undecodable (s := s.setHost [.launch w]) hport hs (.inr rfl) hi
    exact ⟨fun t h => (nomatch hcommand.symm.trans h), fun r h => hlaunch.trans (hcommand.symm.trans h)⟩
  | ok i =>
    have hcmd := decode_cmd_isCommand hi
    constructor
    · intro t h
      obtain ⟨v, hv, hlog, ht, htlog, hlaunch⟩ := presented_command_next hport hs hi h
      have hlt := Prog.run_log_lt (bodyOf_inProgress hcmd v) v
      obtain ⟨m, hm⟩ : ∃ m, ((bodyOf i v).run v).2.log.length = v.log.length + (m + 1) :=
        ⟨((bodyOf i v).run v).2.log.length - v.log.length - 1, by omega⟩
      obtain ⟨x, answers, hx, hu⟩ := underway_of_lt hcmd hv m (by omega)
      have hlen : t.log.length - s.log.length = m + 1 := by rw [htlog, ← hlog]; omega
      rw [hlen, stepTimes_of_step hlaunch, stepTimes_succ hx, ht]
      rcases hu.next hv with ⟨y, answers', -, -, hlt⟩ | ⟨hstep, -⟩
      · omega
      · exact hstep
    · intro r h
      rw [step_presented_command hport hs hi] at h
      rw [step_presented_launch hport hs hi, State.accept]
      cases ho : (s.setHost []).objection i with
      | some r' => rw [exec_command_refused (s := s.setHost []) hcmd hs ho] at h; cases h; rfl
      | none => rw [exec_command_accepted (s := s.setHost []) hcmd hs ho] at h; cases h

/-- Settles O54: `k` steps after acceptance the command stands at `RUN(i, k)`, and what is left of its program issues
the rest of the trace. -/
theorem positionCountsTheMicroOperations : Obligations.PositionCountsTheMicroOperations := by
  intro s t w i k hport hs hi h hk
  obtain ⟨v, hv, hlog, -, htlog, hlaunch⟩ := presented_command_next hport hs hi h
  obtain ⟨x, answers, hx, hu⟩ := underway_of_lt (decode_cmd_isCommand hi) hv k
    (by rw [← htlog, hlog]; omega)
  obtain ⟨scl, sda, ans, n, es, hes, hran⟩ := hu.ran
  have hxlog : x.log = es.reverse ++ s.log := by rw [hran, ← hlog]; rfl
  have hends : ((bodyOf i v).after k answers).ends fun _ _ => True := Prog.ends_of_forall fun _ _ => trivial
  obtain ⟨_, _, es', hrest, -⟩ := hends.run (x.setSeq .ready)
  have htlog' : t.log = (es ++ es').reverse ++ s.log := by
    rw [htlog, ← hu.run_rest, hrest, State.ran_log, State.setSeq_log, hxlog, List.reverse_append, List.append_assoc]
  refine ⟨x, answers, (stepTimes_of_step hlaunch).trans hx, by rw [hran]; rfl, by rw [hran]; rfl, ?_⟩
  rw [newEvents_of_log hxlog, newEvents_of_log htlog', ← hes, List.take_left]

end Sys2Proof.Machine
end

section
/-! Single steps and single micro-operations, with their frames (R29, R34, R37, R70, R72, R76). -/

namespace Sys2Proof.Machine

open Sys2Proof

/-- Settles O14: the command is not accepted while `BUSY` is 1. -/
theorem runningBlockAcceptsNoCommand : Obligations.RunningBlockAcceptsNoCommand :=
  fun _ _ => exec_command_busy

theorem hostWriteBuf_of_lt {s : State} {j : Nat} (h : j < s.cfg.bufDepth) (v : Byte) :
    s.hostWriteBuf j v = .next (s.setBuf (s.buf.set j v)) := by
  rw [State.hostWriteBuf, if_pos h]

theorem hostWriteBuf_of_ge {s : State} {j : Nat} (h : s.cfg.bufDepth ≤ j) (v : Byte) :
    s.hostWriteBuf j v = .fault .noBufEntry := by
  rw [State.hostWriteBuf, if_neg (Nat.not_lt.2 h)]

/-- Settles O15: between commands the entry decides, inside one the write is refused. -/
theorem hostWritesTheBufferWhileReady : Obligations.HostWritesTheBufferWhileReady := by
  intro s j v hs hport hhost
  refine ⟨fun hready hj => ?inRange, fun hready hj => ?outOfRange, fun hrun hwell hrest => ?busy⟩
  case inRange =>
    rw [step_writeBuf hport hready hhost]
    exact hostWriteBuf_of_lt (s := s.setHost hs) hj v
  case outOfRange =>
    rw [step_writeBuf hport hready hhost]
    exact hostWriteBuf_of_ge (s := s.setHost hs) hj v
  case busy =>
    have henv := (environmentObjection_none_iff s).2 ⟨hwell, hrest⟩
    cases hseq : s.seq with
    | ready => exact absurd hseq hrun
    | run c k answers => simp only [step_running hport hseq, State.busyStep, henv, hhost]

/-- Settles O16: the host's script is empty, or the action taken off it is a quiet one. -/
theorem readyBlockWaitsForTheHost : Obligations.ReadyBlockWaitsForTheHost :=
  fun _ hport hready => ⟨step_waiting hport hready, fun _ => step_quiet hport hready⟩

/-- A micro-operation of the Pin Driver port that is no `Dr`: the pins and one item in the trace (R37, R76). -/
theorem exec_uop_plain {i : Instr} {u : Uop} (hi : uopOf i = some u) (hu : u ≠ .dRead) (s : State) :
    exec i s =
      .next { s with scl := sclAfter u s.scl, sda := sdaAfter u s.sda, log := ⟨u, none⟩ :: s.log } := by
  rw [exec_uop hi, s.perform_plain hu]
  rfl

/-- Settles O17: each is the clock pin's cell of `sclAfter`. -/
theorem clockPinMicroOperations : Obligations.ClockPinMicroOperations := fun s =>
  ⟨exec_uop_plain (u := .c0) rfl (by decide) s, exec_uop_plain (u := .c1) rfl (by decide) s,
    exec_uop_plain (u := .cOut) rfl (by decide) s⟩

/-- Settles O18: each is the data pin's cell of `sdaAfter`. -/
theorem dataPinMicroOperations : Obligations.DataPinMicroOperations := fun s =>
  ⟨exec_uop_plain (u := .d0) rfl (by decide) s, exec_uop_plain (u := .d1) rfl (by decide) s,
    exec_uop_plain (u := .dOut) rfl (by decide) s, exec_uop_plain (u := .dIn) rfl (by decide) s⟩

end Sys2Proof.Machine
end

section
/-! The host's presented command as a step (R57, R70, R72), and the loopback of a byte: what a `WRB` sends, an `RDB`
reads back (R52, R130, R140). -/

namespace Sys2Proof.Machine

open Sys2Proof

/-- Settles O11: the fetch of a ready block with nothing on the Pin Driver port is the host's action. -/
theorem stepRunsThePresentedCommand : Obligations.StepRunsThePresentedCommand :=
  fun _ _ _ _ hport hready hhost hdecode => step_command hport hready hhost hdecode

/-! ### The two byte commands, run from `Busy` -/

/-- A command presented within its contract runs to its result (R72, R90, R200, R201, R207). -/
theorem exec_of_readyIn {i : Instr} {s : State} {b : BusState} (hi : i.isCommand = true)
    (hb : neededBusState i = some b) (hw : i.wellFormed s.cfg.bufDepth = true) (h : s.readyIn b) :
    exec i s = .next (s.commandResult i) := by
  obtain ⟨hready, hwell, hrest, hbus⟩ := h
  exact exec_command_accepted hi hready (objection_none hb hw hwell hrest hbus)

/-- R41. -/
theorem pins_of_readyIn_busy {s : State} (h : s.readyIn .busy) : s.scl = lowPin ∧ s.sda = lowPin := by
  obtain ⟨-, -, -, hbus⟩ := h
  exact (busState_busy_iff s).1 hbus

/-- R130, R131, whatever `resolve_sda` says. -/
theorem exec_wrb_of_readyIn (v : Byte) {s : State} (h : s.readyIn .busy) :
    exec (.wrb v) s =
      .next (((s.setOperands 0 0 v).ran (if acknowledged (s.ackSample v) then lowPin else highPin)
        (if acknowledged (s.ackSample v) then lowPin else highPin) (s.ackSample v) 1
        (writeByteEvents v (s.ackSample v))).writeAckf (acknowledged (s.ackSample v))) := by
  obtain ⟨hscl, hsda⟩ := pins_of_readyIn_busy h
  have hload : s.loadOperands (commandWord (.wrb v)) = s.setOperands 0 0 v := loadOperands_assemble s _ _ _ _
  have hwrite := writeByte_run_sample (s.setOperands 0 0 v) v hscl hsda
  rw [exec_of_readyIn rfl rfl rfl h, State.commandResult, hload, bodyOf, wrbBody, State.setOperands_data, Prog.run_bind,
    hwrite]
  rfl

/-- R140, R141. -/
theorem exec_rdb_of_readyIn {s : State} (h : s.readyIn .busy) (hr : s.cfg.resolveSda.readsInput) :
    exec .rdb s =
      .next (((s.setOperands 0 0 0).ran lowPin lowPin (answerLevel (s.peerLowAt 7)) 8
        (readByteEvents (s.answersAt 0 8))).setRData (s.byteAt 0)) := by
  obtain ⟨hscl, hsda⟩ := pins_of_readyIn_busy h
  have hload : s.loadOperands (commandWord .rdb) = s.setOperands 0 0 0 := loadOperands_assemble s _ _ _ _
  have hread := readByte_run (s.setOperands 0 0 0) hr hscl hsda
  rw [exec_of_readyIn rfl rfl rfl h, State.commandResult, hload, bodyOf, rdbBody, Prog.run_bind, hread]
  rfl

/-! ### The levels sent, and the byte they make -/

/-- The level of a data bit stands on the latch at its rising edge (R106, R130). -/
theorem levelsAtRise_bitEvents (sda : Pin) (b : Bool) (es : List Event) :
    levelsAtRise sda (uopsOf (bitEvents b ++ es)) =
      levelOfBit b :: levelsAtRise (sda.set (levelOfBit b)) (uopsOf es) := by
  cases b <;> rfl

/-- The levels at the first rising edges are the data bits, in the order sent (R52). -/
theorem take_levelsAtRise_bitEvents (sda : Pin) (bs : List Bool) (es : List Event) :
    (levelsAtRise sda (uopsOf (bs.flatMap bitEvents ++ es))).take bs.length = bs.map levelOfBit := by
  induction bs generalizing sda with
  | nil => rfl
  | cons b bs ih =>
    rw [List.flatMap_cons, List.append_assoc, levelsAtRise_bitEvents, List.length_cons, List.take_succ_cons, ih,
      List.map_cons]

/-- The data bits come first in the trace of `WriteByte`, most significant first (R52, R130). -/
theorem writeByteEvents_eq_bits_append (v : Byte) (ack : Level) :
    ∃ es, writeByteEvents v ack = (bitsMsbFirst v).flatMap bitEvents ++ es := by
  simp only [writeByteEvents, bitsMsbFirst, List.map_cons, List.map_nil, List.flatMap_cons, List.flatMap_nil,
    List.append_assoc, List.append_nil]
  exact ⟨_, rfl⟩

/-- What a `WRB v` sends in its first eight pulses, whatever the acknowledge. -/
theorem take_levelsAtRise_wrb {v : Byte} {s t : State} (h : s.readyIn .busy) (ht : exec (.wrb v) s = .next t) :
    (levelsAtRise s.sda (uopsOf (s.newEvents t))).take 8 = (bitsMsbFirst v).map levelOfBit := by
  rw [exec_wrb_of_readyIn v h] at ht
  cases ht
  obtain ⟨es, hes⟩ := writeByteEvents_eq_bits_append v (s.ackSample v)
  rw [newEvents_of_log rfl, hes]
  exact take_levelsAtRise_bitEvents s.sda (bitsMsbFirst v) es

/-- The byte read is the next eight samples shifted in (R79, R140). -/
theorem byteAt_zero_eq_foldl (s : State) : s.byteAt 0 = (s.answersAt 0 8).foldl shiftIn 0#8 :=
  (foldl_shiftIn_eight _ _ _ _ _ _ _ _).symm

/-- Shifting in undoes sending: both take the most significant bit first (R52, R79). -/
theorem foldl_shiftIn_bitsMsbFirst (v : Byte) : ((bitsMsbFirst v).map levelOfBit).foldl shiftIn 0#8 = v := by
  revert v
  decide

/-- Settles O49: the answers are the bits of `v` in the order sent, and shifting them in gives `v` back. -/
theorem loopbackReproducesTheByte : Obligations.LoopbackReproducesTheByte := by
  intro v s t u hs ht hu hr hanswers
  refine ⟨_, exec_rdb_of_readyIn hu hr, ?_⟩
  calc u.byteAt 0 = (u.answersAt 0 8).foldl shiftIn 0#8 := byteAt_zero_eq_foldl u
    _ = ((bitsMsbFirst v).map levelOfBit).foldl shiftIn 0#8 := by rw [hanswers, take_levelsAtRise_wrb hs ht]
    _ = v := foldl_shiftIn_bitsMsbFirst v

end Sys2Proof.Machine
end

section
/-! The words of the two ports and the instructions they stand for, both ways (R71 to R76, R81 to R83, R90). -/

namespace Sys2Proof.Machine

open Sys2Proof

variable (depth : Nat) {a : PeerAddr} {n d : Byte} {w : CmdWord} {i : Instr}

/-! ### The operand checks -/

theorem whenUnusedZero_eq_ok_iff {unused : List Byte} {x : Except DecodeError Instr} :
    whenUnusedZero unused x = .ok i ↔ (∀ v ∈ unused, v = 0#8) ∧ x = .ok i := by
  unfold whenUnusedZero
  split
  case isTrue h => exact ⟨fun hi => ⟨by simpa using h, hi⟩, And.right⟩
  case isFalse h => exact ⟨nofun, fun ⟨hzero, _⟩ => absurd (by simpa using hzero) h⟩

theorem wrtOfLen_eq_ok_iff {depth} : wrtOfLen depth a n = .ok i ↔ i = .wrt a n ∧ i.wellFormed depth = true := by
  constructor
  · intro h
    obtain rfl := wrtOfLen_ok h
    unfold wrtOfLen at h
    split at h <;> simp_all [Instr.wellFormed]
  · rintro ⟨rfl, h⟩
    rw [wrtOfLen, if_pos (of_decide_eq_true h)]

theorem rdnOfLen_eq_ok_iff {depth} : rdnOfLen depth a n = .ok i ↔ i = .rdn a n ∧ i.wellFormed depth = true := by
  have hwf : (Instr.rdn a n).wellFormed depth = true ↔ n.toNat ≠ 0 ∧ n.toNat ≤ depth := by
    simp [Instr.wellFormed, Nat.one_le_iff_ne_zero]
  constructor
  · intro h
    obtain rfl := rdnOfLen_ok h
    unfold rdnOfLen at h
    split_ifs at h with hzero hdepth
    exact ⟨rfl, hwf.2 ⟨hzero, hdepth⟩⟩
  · rintro ⟨rfl, h⟩
    obtain ⟨hzero, hdepth⟩ := hwf.1 h
    rw [rdnOfLen, if_neg hzero, if_pos hdepth]

/-! ### The word of each command, decoded (R73) -/

theorem decodeCmd_start : decodeCmd depth (CmdWord.assemble 0x1#4 0#5 0 0 0) = .ok .start := rfl

theorem decodeCmd_stop : decodeCmd depth (CmdWord.assemble 0x2#4 0#5 0 0 0) = .ok .stop := rfl

theorem decodeCmd_wrb : decodeCmd depth (CmdWord.assemble 0x3#4 0#5 0 0 d) = .ok (.wrb d) := by
  simp [decodeCmd, whenUnusedZero]

theorem decodeCmd_rdb : decodeCmd depth (CmdWord.assemble 0x4#4 0#5 0 0 0) = .ok .rdb := rfl

theorem decodeCmd_wrt : decodeCmd depth (CmdWord.assemble 0x5#4 0#5 a n 0) = wrtOfLen depth a n := by
  simp [decodeCmd, whenUnusedZero]

theorem decodeCmd_rd1 : decodeCmd depth (CmdWord.assemble 0x6#4 0#5 a 0 0) = .ok (.rd1 a) := by
  simp [decodeCmd, whenUnusedZero]

theorem decodeCmd_rd2 : decodeCmd depth (CmdWord.assemble 0x7#4 0#5 a 0 0) = .ok (.rd2 a) := by
  simp [decodeCmd, whenUnusedZero]

theorem decodeCmd_rdn : decodeCmd depth (CmdWord.assemble 0x8#4 0#5 a n 0) = rdnOfLen depth a n := by
  simp [decodeCmd, whenUnusedZero]

/-- The word of a micro-operation is its code in the table (R76). -/
theorem encode_of_uopOf {u : Uop} (hu : uopOf i = some u) : encode i = .uop (uopWord u) := by
  cases i <;> cases hu <;> rfl

theorem decodeUop_of_uopOf {u : Uop} (hu : uopOf i = some u) : decodeUop (uopWord u) = .ok i := by
  cases i <;> cases hu <;> rfl

/-- Settles O1: a command's word has the command's fields, and its operand checks pass for a well-formed one; the word of a
micro-operation is its code. -/
theorem decodeOfEncodeIsTheInstruction : Obligations.DecodeOfEncodeIsTheInstruction := by
  intro depth i hwf
  rcases isCommand_or_uop i with hi | ⟨u, hu⟩
  · cases i with
    | start => exact decodeCmd_start depth
    | stop => exact decodeCmd_stop depth
    | wrb d => exact decodeCmd_wrb depth
    | rdb => exact decodeCmd_rdb depth
    | wrt a n => exact (decodeCmd_wrt depth).trans (wrtOfLen_eq_ok_iff.2 ⟨rfl, hwf⟩)
    | rd1 a => exact decodeCmd_rd1 depth
    | rd2 a => exact decodeCmd_rd2 depth
    | rdn a n => exact (decodeCmd_rdn depth).trans (rdnOfLen_eq_ok_iff.2 ⟨rfl, hwf⟩)
    | _ => cases hi
  · rw [encode_of_uopOf hu]
    exact decodeUop_of_uopOf hu

/-! ### From the word to the instruction -/

/-- A word with a command's fields is the command's word (R71). -/
theorem encodeCmd_eq {o : BitVec 4} (ho : (CmdWord.op w).toNat = o.toNat) (hz : CmdWord.zero w = 0#5)
    (ha : CmdWord.addr w = a) (hn : CmdWord.len w = n) (hd : CmdWord.data w = d) : encodeCmd o a n d = .cmd w := by
  subst ha hn hd
  rw [encodeCmd, ← BitVec.eq_of_toNat_eq ho, ← hz, CmdWord.assemble_fields]

theorem addr_eq_zero_of_setWidth (h : a.setWidth 8 = 0#8) : a = 0 := by
  bv_omega

/-- Only the words of well-formed commands decode (R74, R81, R82, R90). -/
theorem encode_of_decodeCmd {depth} (h : decodeCmd depth w = .ok i) : encode i = .cmd w ∧ i.wellFormed depth = true := by
  unfold decodeCmd at h
  split_ifs at h with hop hz
  split at h <;> obtain ⟨hunused, hi⟩ := whenUnusedZero_eq_ok_iff.1 h <;>
    simp only [List.forall_mem_cons] at hunused
  case h_1 ho | h_2 ho | h_4 ho =>
    cases hi
    obtain ⟨ha, hn, hd, -⟩ := hunused
    exact ⟨encodeCmd_eq ho hz (addr_eq_zero_of_setWidth ha) hn hd, rfl⟩
  case h_3 ho =>
    cases hi
    obtain ⟨ha, hn, -⟩ := hunused
    exact ⟨encodeCmd_eq ho hz (addr_eq_zero_of_setWidth ha) hn rfl, rfl⟩
  case h_5 ho =>
    obtain ⟨rfl, hwf⟩ := wrtOfLen_eq_ok_iff.1 hi
    exact ⟨encodeCmd_eq ho hz rfl rfl hunused.1, hwf⟩
  case h_6 ho | h_7 ho =>
    cases hi
    obtain ⟨hn, hd, -⟩ := hunused
    exact ⟨encodeCmd_eq ho hz rfl hn hd, rfl⟩
  case h_8 =>
    obtain ⟨rfl, hwf⟩ := rdnOfLen_eq_ok_iff.1 hi
    have ho : (CmdWord.op w).toNat = 8 := by
      simp only [imp_false] at *
      omega
    exact ⟨encodeCmd_eq ho hz rfl rfl hunused.1, hwf⟩

/-- The table of codes, over the 32 `UOP` words (R76). -/
theorem encode_of_mem_decodeUop : ∀ w : UopWord, ∀ i ∈ (decodeUop w).toOption, encode i = .uop w := by decide

theorem wellFormed_of_uopOf {depth} {u : Uop} (hu : uopOf i = some u) : i.wellFormed depth = true := by
  cases i <;> cases hu <;> rfl

/-- Settles O2: on the command port by the fields of the row, on the Pin Driver port by the table of codes. -/
theorem decodedWordIsItsEncoding : Obligations.DecodedWordIsItsEncoding := by
  intro depth c i h
  cases c with
  | cmd w => exact encode_of_decodeCmd h
  | uop w =>
    obtain ⟨u, hu⟩ := decode_uop h
    have hmem : i ∈ (decodeUop w).toOption := congrArg Except.toOption h
    exact ⟨encode_of_mem_decodeUop w i hmem, wellFormed_of_uopOf hu⟩

/-! ### The rows by match and mask (R74) -/

/-- A word under a mask whose fields are known (R71, R74). -/
theorem fields_of_masked {o mo : BitVec 4} {mz : BitVec 5} {ma : PeerAddr} {mn md : Byte}
    (h : w &&& CmdWord.assemble mo mz ma mn md = CmdWord.assemble o 0#5 0#7 0#8 0#8) :
    CmdWord.op w &&& mo = o ∧ CmdWord.zero w &&& mz = 0#5 ∧ CmdWord.addr w &&& ma = 0#7 ∧ CmdWord.len w &&& mn = 0#8 ∧
      CmdWord.data w &&& md = 0#8 := by
  rw [← CmdWord.assemble_fields w, CmdWord.assemble_and] at h
  have hop := congrArg CmdWord.op h
  have hzero := congrArg CmdWord.zero h
  have haddr := congrArg CmdWord.addr h
  have hlen := congrArg CmdWord.len h
  have hdata := congrArg CmdWord.data h
  simp only [CmdWord.op_assemble, CmdWord.zero_assemble, CmdWord.addr_assemble, CmdWord.len_assemble,
    CmdWord.data_assemble] at hop hzero haddr hlen hdata
  exact ⟨hop, hzero, haddr, hlen, hdata⟩

theorem eq_of_masked_all {o : BitVec 4} (h : w &&& 0xFFFFFFFF#32 = CmdWord.assemble o 0#5 0#7 0#8 0#8) :
    w = CmdWord.assemble o 0#5 0#7 0#8 0#8 :=
  BitVec.and_allOnes.symm.trans h

/-- The converse of `masked_data`. -/
theorem eq_of_masked_data {o : BitVec 4} (h : w &&& 0xFFFFFF00#32 = CmdWord.assemble o 0#5 0#7 0#8 0#8) :
    w = CmdWord.assemble o 0#5 0#7 0#8 (CmdWord.data w) := by
  rw [show 0xFFFFFF00#32 = CmdWord.assemble (BitVec.allOnes 4) (BitVec.allOnes 5) (BitVec.allOnes 7) (BitVec.allOnes 8) 0#8
    by decide] at h
  obtain ⟨ho, hz, ha, hn, -⟩ := fields_of_masked h
  rw [BitVec.and_allOnes] at ho hz ha hn
  rw [← ho, ← hz, ← ha, ← hn, CmdWord.assemble_fields]

/-- The converse of `masked_addr`. -/
theorem eq_of_masked_addr {o : BitVec 4} (h : w &&& 0xFF80FFFF#32 = CmdWord.assemble o 0#5 0#7 0#8 0#8) :
    w = CmdWord.assemble o 0#5 (CmdWord.addr w) 0#8 0#8 := by
  rw [show 0xFF80FFFF#32 = CmdWord.assemble (BitVec.allOnes 4) (BitVec.allOnes 5) 0#7 (BitVec.allOnes 8) (BitVec.allOnes 8)
    by decide] at h
  obtain ⟨ho, hz, -, hn, hd⟩ := fields_of_masked h
  rw [BitVec.and_allOnes] at ho hz hn hd
  conv_lhs => rw [← CmdWord.assemble_fields w, ho, hz, hn, hd]

/-- The converse of `masked_addr_len`. -/
theorem eq_of_masked_addr_len {o : BitVec 4} (h : w &&& 0xFF8000FF#32 = CmdWord.assemble o 0#5 0#7 0#8 0#8) :
    w = CmdWord.assemble o 0#5 (CmdWord.addr w) (CmdWord.len w) 0#8 := by
  rw [show 0xFF8000FF#32 = CmdWord.assemble (BitVec.allOnes 4) (BitVec.allOnes 5) 0#7 0#8 (BitVec.allOnes 8) by decide] at h
  obtain ⟨ho, hz, -, -, hd⟩ := fields_of_masked h
  rw [BitVec.and_allOnes] at ho hz hd
  conv_lhs => rw [← CmdWord.assemble_fields w, ho, hz, hd]

/-- R90, the zero length as a byte. -/
theorem rdnOfLen_eq (a : PeerAddr) (n : Byte) :
    rdnOfLen depth a n =
      if n = 0#8 then .error .lenZero else if n.toNat ≤ depth then .ok (.rdn a n) else .error .lenAboveDepth := by
  simp only [rdnOfLen, BitVec.toNat_eq, BitVec.toNat_ofNat, Nat.zero_mod]

/-- Settles O3: a row's mask and match give the word's fields, and so its command; a word that decodes is the word of a
command, which is in that command's row. -/
theorem commandRowsByMatchAndMask : Obligations.CommandRowsByMatchAndMask := by
  intro depth w
  have decodes {v : CmdWord} (h : w = v) : decodeCmd depth w = decodeCmd depth v := congrArg _ h
  refine ⟨fun h => ?start, fun h => ?stop, fun h => ?wrb, fun h => ?rdb, fun h => ?wrt, fun h => ?rd1, fun h => ?rd2,
    fun h => ?rdn, fun hstart hstop hwrb hrdb hwrt hrd1 hrd2 hrdn => ?noRow⟩
  case start => exact (decodes (eq_of_masked_all (o := 0x1#4) h)).trans (decodeCmd_start depth)
  case stop => exact (decodes (eq_of_masked_all (o := 0x2#4) h)).trans (decodeCmd_stop depth)
  case wrb => exact (decodes (eq_of_masked_data (o := 0x3#4) h)).trans (decodeCmd_wrb depth)
  case rdb => exact (decodes (eq_of_masked_all (o := 0x4#4) h)).trans (decodeCmd_rdb depth)
  case wrt => exact (decodes (eq_of_masked_addr_len (o := 0x5#4) h)).trans (decodeCmd_wrt depth)
  case rd1 => exact (decodes (eq_of_masked_addr (o := 0x6#4) h)).trans (decodeCmd_rd1 depth)
  case rd2 => exact (decodes (eq_of_masked_addr (o := 0x7#4) h)).trans (decodeCmd_rd2 depth)
  case rdn =>
    exact (decodes (eq_of_masked_addr_len (o := 0x8#4) h)).trans ((decodeCmd_rdn depth).trans (rdnOfLen_eq depth _ _))
  case noRow =>
    cases hdecode : decodeCmd depth w with
    | error e => exact ⟨e, rfl⟩
    | ok i =>
      obtain ⟨hw, -⟩ := encode_of_decodeCmd hdecode
      exfalso
      cases i with
      | start => cases hw; exact hstart rfl
      | stop => cases hw; exact hstop rfl
      | wrb d => cases hw; exact hwrb (masked_data 0x3#4 d)
      | rdb => cases hw; exact hrdb rfl
      | wrt a n => cases hw; exact hwrt (masked_addr_len 0x5#4 a n)
      | rd1 a => cases hw; exact hrd1 (masked_addr 0x6#4 a)
      | rd2 a => cases hw; exact hrd2 (masked_addr 0x7#4 a)
      | rdn a n => cases hw; exact hrdn (masked_addr_len 0x8#4 a n)
      | _ => cases hw

/-! ### Reserved words (R81, R82) -/

theorem extractLsb'_op (w : CmdWord) : w.extractLsb' 28 4 = CmdWord.op w := rfl
theorem extractLsb'_zero (w : CmdWord) : w.extractLsb' 23 5 = CmdWord.zero w := rfl
theorem extractLsb'_data (w : CmdWord) : w.extractLsb' 0 8 = CmdWord.data w := rfl

theorem extractLsb'_len_data (w : CmdWord) : w.extractLsb' 0 16 = CmdWord.len w ++ CmdWord.data w :=
  (BitVec.extractLsb'_append_extractLsb'_eq_extractLsb' (start₁ := 0) (len₁ := 8) (start₂ := 8) (len₂ := 8) rfl).symm

theorem extractLsb'_zero_addr_len (w : CmdWord) :
    w.extractLsb' 8 20 = CmdWord.zero w ++ (CmdWord.addr w ++ CmdWord.len w) := by
  have h : CmdWord.addr w ++ CmdWord.len w = w.extractLsb' 8 15 :=
    BitVec.extractLsb'_append_extractLsb'_eq_extractLsb' (start₂ := 16) (len₂ := 7) rfl
  rw [h]
  exact (BitVec.extractLsb'_append_extractLsb'_eq_extractLsb' (len₁ := 15) (start₂ := 23) (len₂ := 5) rfl).symm

theorem extractLsb'_zero_addr_len_data (w : CmdWord) :
    w.extractLsb' 0 28 = CmdWord.zero w ++ (CmdWord.addr w ++ CmdWord.len w) ++ CmdWord.data w := by
  rw [← extractLsb'_zero_addr_len]
  exact (BitVec.extractLsb'_append_extractLsb'_eq_extractLsb' (len₁ := 8) (start₂ := 8) (len₂ := 20) rfl).symm

/-- Settles O4: a word that decodes is the word of its command, none of whose fields is reserved. -/
theorem reservedCommandWordsAreRefused : Obligations.ReservedCommandWordsAreRefused := by
  intro s w hs hport hready hhost hreserved
  cases hdecode : decode s.cfg.bufDepth (.cmd w) with
  | error e => exact ⟨e, step_undecodable hport hready hhost hdecode⟩
  | ok i =>
    exfalso
    obtain ⟨hw, -⟩ := encode_of_decodeCmd hdecode
    simp only [extractLsb'_op, extractLsb'_zero, extractLsb'_data, extractLsb'_len_data, extractLsb'_zero_addr_len,
      extractLsb'_zero_addr_len_data] at hreserved
    -- Each command's word has a defined `OP`, and zeros in `ZERO` and in the fields the command does not use.
    cases i <;> cases hw
    all_goals simp at hreserved

end Sys2Proof.Machine
end

section
/-! Operand assembly (R77, R79), the codes of the Pin Driver port (R76), and the steps that take a word (R72, R76, R90,
R175). -/

namespace Sys2Proof.Machine

open Sys2Proof

/-- Settles O5: sixteen closed words, computed. -/
theorem wordsOfTheSpecDecode : Obligations.WordsOfTheSpecDecode := by
  unfold Obligations.WordsOfTheSpecDecode
  decide

/-! ### Operand assembly -/

/-- R77: the direction is appended below the address. -/
theorem addressByte_eq_concat (a : PeerAddr) :
    addressByte a .write = a.concat false ∧ addressByte a .read = a.concat true := ⟨rfl, rfl⟩

theorem addressByte_write_eq_shiftLeft (a : PeerAddr) : addressByte a .write = a.setWidth 8 <<< 1 := by
  obtain ⟨hwrite, -⟩ := addressByte_eq_concat a
  rw [hwrite]
  apply BitVec.eq_of_toNat_eq
  simp
  omega

theorem addressByte_read_eq_or (a : PeerAddr) : addressByte a .read = (a.setWidth 8 <<< 1) ||| 1#8 := by
  obtain ⟨hwrite, hread⟩ := addressByte_eq_concat a
  have hone : 1#8 = (0#7).concat true := by decide
  rw [← addressByte_write_eq_shiftLeft, hwrite, hread, hone, BitVec.concat_or_concat, BitVec.or_zero, Bool.false_or]

/-- Settles O6: the direction bit stands below the address. -/
theorem addressByteIsShiftedAddressWithDirection : Obligations.AddressByteIsShiftedAddressWithDirection := by
  intro a
  refine ⟨addressByte_write_eq_shiftLeft a, addressByte_read_eq_or a, ?_⟩
  obtain ⟨hwrite, hread⟩ := addressByte_eq_concat a
  rw [hwrite, hread]
  exact ⟨BitVec.getLsbD_concat_zero, BitVec.getLsbD_concat_zero, fun j _ =>
    ⟨BitVec.getLsbD_concat_succ, BitVec.getLsbD_concat_succ⟩⟩

theorem levelOfBit_eq_answerLevel (b : Bool) : levelOfBit b = answerLevel (!b) := by cases b <;> rfl

/-- Settles O7: the bits of a byte, as they are sent, are eight samples that give it. -/
theorem eightShiftsAssembleTheReceivedByte : Obligations.EightShiftsAssembleTheReceivedByte := by
  refine ⟨fun b7 b6 b5 b4 b3 b2 b1 b0 => ?assembled, fun v => ?everyByte⟩
  case assembled =>
    simpa [levelOfBit_eq_answerLevel] using foldl_shiftIn_eight (!b7) (!b6) (!b5) (!b4) (!b3) (!b2) (!b1) (!b0)
  case everyByte => exact ⟨(bitsMsbFirst v).map levelOfBit, rfl, foldl_shiftIn_bitsMsbFirst v⟩

/-! ### The Pin Driver port -/

theorem exists_uopOf_eq (u : Uop) : ∃ i, uopOf i = some u :=
  match u with
  | .c0 => ⟨.c0, rfl⟩
  | .c1 => ⟨.c1, rfl⟩
  | .cOut => ⟨.cOut, rfl⟩
  | .d0 => ⟨.d0, rfl⟩
  | .d1 => ⟨.d1, rfl⟩
  | .dOut => ⟨.dOut, rfl⟩
  | .dIn => ⟨.dIn, rfl⟩
  | .dRead => ⟨.dRead, rfl⟩
  | .wStart => ⟨.wStart, rfl⟩
  | .wStop => ⟨.wStop, rfl⟩
  | .wLow => ⟨.wLow, rfl⟩
  | .wHigh => ⟨.wHigh, rfl⟩
  | .wSettle => ⟨.wSettle, rfl⟩

/-- Settles O55: each micro-operation has its instruction, whose code is its word. -/
theorem uopWordsAreTheCodesOfTheTable : Obligations.UopWordsAreTheCodesOfTheTable := by
  refine ⟨rfl, fun u => ?_⟩
  obtain ⟨i, hu⟩ := exists_uopOf_eq u
  exact ⟨i, hu, encode_of_uopOf hu, fun s => ⟨exec_uop hu s, s.perform_uopOutput u⟩⟩

/-- Settles O12: the word decodes or does not while no command runs; while one runs it is a second writer's. -/
theorem stepRunsTheMicroOperationWord : Obligations.StepRunsTheMicroOperationWord := by
  intro s w hport
  refine ⟨fun i hready hi => step_offered hport hready hi, fun e hready he => step_offered_undecodable hport hready he,
    fun hrun => ?_⟩
  cases hseq : s.seq with
  | ready => exact absurd hseq hrun
  | run c k answers => exact step_secondWriter hport hseq

/-! ### Acceptance -/

theorem objection_of_not_wellFormed {s : State} {i : Instr} (h : i.wellFormed s.cfg.bufDepth = false) :
    s.objection i = some .lengthOutOfRange := by
  rw [State.objection, if_pos h]

/-- Settles O33: the operand range is the first of the checks. -/
theorem lengthOutOfRangeIsRefused : Obligations.LengthOutOfRangeIsRefused := by
  intro a n s hready
  have refused {i : Instr} (hi : i.isCommand = true) (hwf : i.wellFormed s.cfg.bufDepth = false) :
      exec i s = .refused .lengthOutOfRange :=
    exec_command_refused hi hready (objection_of_not_wellFormed hwf)
  refine ⟨fun habove => ⟨refused rfl ?wrt, refused rfl ?rdn⟩, fun hzero => refused rfl ?rdnZero⟩
  case wrt => simpa [Instr.wellFormed] using habove
  case rdn => simpa [Instr.wellFormed] using fun _ => habove
  case rdnZero => simp [Instr.wellFormed, hzero]

theorem commandWord_of_encode {i : Instr} {w : CmdWord} (h : encode i = .cmd w) : commandWord i = w := by
  rw [commandWord, h]

/-- A running block that is presented a word steps as one presented nothing (R34, R72). -/
theorem step_running_presented {s : State} (hport : s.uopPort = none) (hrun : s.seq ≠ .ready) (w : CmdWord)
    (hs : List HostAction) :
    step (s.setHost (.command w :: hs)) = step (s.setHost (.quiet :: hs)) ∧
      step (s.setHost (.launch w :: hs)) = step (s.setHost (.quiet :: hs)) := by
  cases hseq : s.seq with
  | ready => exact absurd hseq hrun
  | run c k answers =>
    have stepOf (h : List HostAction) : step (s.setHost h) = (s.setHost h).busyStep c k answers :=
      step_running hport hseq
    simp only [stepOf]
    exact ⟨rfl, rfl⟩

/-- Settles O13: the word of the command is the word presented, so its fields are the operands loaded. -/
theorem acceptanceLoadsTheOperandRegisters : Obligations.AcceptanceLoadsTheOperandRegisters := by
  refine ⟨fun s w hs i b hport hready hhost hdecode hneeds => ?accepted, fun s w hs hport hrun =>
    step_running_presented hport hrun w hs⟩
  case accepted =>
    obtain ⟨hseq, hwell, hrest, hbus⟩ := hready
    obtain ⟨hw, hwf⟩ := encode_of_decodeCmd hdecode
    have hobjection : (s.setHost hs).objection i = none := objection_none hneeds hwf hwell hrest hbus
    rw [step_launch hport hseq hhost hdecode, State.accept, hobjection, commandWord_of_encode hw]
    rfl

end Sys2Proof.Machine
end

section
/-! The fixed reads: `RD2` on the environment's answers, and `RD1` and `RD2` as buffer reads (R80, R87, R155 to R158). -/

namespace Sys2Proof.Machine

open Sys2Proof

/-! ### A command's result, from the state before acceptance -/

theorem State.perform_loadOperands (s : State) (w : CmdWord) (u : Uop) :
    (s.loadOperands w).perform u = (s.perform u).loadOperands w := by
  cases u <;> rfl

/-- No micro-operation reads or writes the operand registers, so a command's program can be run before they are loaded. -/
theorem State.commandResult_of_run {α : Type} {s t : State} {i : Instr} {p : Prog α} {w : α → State → State} {x : α}
    (hbody : bodyOf i (s.loadOperands (commandWord i)) = p.bind fun x => .ret (w x)) (hrun : p.run s = (x, t)) :
    s.commandResult i = w x (t.loadOperands (commandWord i)) := by
  have hload : p.run (s.loadOperands (commandWord i)) = (x, t.loadOperands (commandWord i)) := by
    rw [Prog.run_update (g := fun v => v.loadOperands (commandWord i)) (fun v u => v.perform_loadOperands _ u)
      fun _ => rfl, hrun]
  rw [State.commandResult, hbody, Prog.run_bind, hload, Prog.run_ret]

theorem bodyOf_rd1 (s : State) (a : PeerAddr) : bodyOf (.rd1 a) (s.loadOperands (commandWord (.rd1 a))) = rd1Body a :=
  congrArg rd1Body (CmdWord.addr_assemble _ _ a _ _)

theorem bodyOf_rd2 (s : State) (a : PeerAddr) : bodyOf (.rd2 a) (s.loadOperands (commandWord (.rd2 a))) = rd2Body a :=
  congrArg rd2Body (CmdWord.addr_assemble _ _ a _ _)

theorem bodyOf_rdn (s : State) (a : PeerAddr) (n : Byte) :
    bodyOf (.rdn a n) (s.loadOperands (commandWord (.rdn a n))) = rdnBody a n :=
  congrArg₂ rdnBody (CmdWord.addr_assemble _ _ a n _) (CmdWord.len_assemble _ _ a n _)

/-- R41. -/
theorem pins_of_readyIn_idle {s : State} (h : s.readyIn .idle) : s.scl = highPin ∧ s.sda = highPin := by
  obtain ⟨-, -, -, hbus⟩ := h
  exact (busState_idle_iff s).1 hbus

/-- Settles O29: the read transaction of two bytes, and the word they make. -/
theorem readWordTransaction : Obligations.ReadWordTransaction := by
  intro a s h hr hpeer
  obtain ⟨hscl, hsda⟩ := pins_of_readyIn_idle h
  have hread := readTxn_run_acked a 2 s hr hscl hsda hpeer
  rw [addressByte_read_eq_or] at hread
  have hload (t : State) : t.loadOperands (commandWord (.rd2 a)) = t.setOperands a 0 0 := loadOperands_assemble t _ _ _ _
  rw [exec_of_readyIn rfl rfl rfl h, State.commandResult_of_run (bodyOf_rd2 s a) hread, hload]
  rfl

/-! ### The bytes read -/

theorem readBytes_ends_length (n : Nat) : (readBytes n).ends fun vs _ => vs.length = n := by
  induction n with
  | zero => rfl
  | succ n ih =>
    refine (Prog.ends_bind _ _ _).2 (Prog.ends_of_forall fun v _ => (Prog.ends_bind _ _ _).2 (ih.mono fun vs _ hvs => ?_))
    exact congrArg Nat.succ hvs

/-- R155: a read transaction that succeeds reads as many bytes as were asked for, whatever they are. -/
theorem readTxn_ends_length (a : PeerAddr) (n : Nat) :
    (readTxn a n).ends fun r _ => ∀ vs, r = some vs → vs.length = n := by
  refine (Prog.ends_bind _ _ _).2 (Prog.ends_of_forall fun _ _ =>
    (Prog.ends_bind _ _ _).2 (Prog.ends_of_forall fun ok _ => ?_))
  cases ok with
  | false => exact nofun
  | true =>
    refine (Prog.ends_bind _ _ _).2 ((readBytes_ends_length n).mono fun vs _ hvs =>
      (Prog.ends_bind _ _ _).2 (Prog.ends_of_forall fun _ _ => ?_))
    rintro _ ⟨⟩
    exact hvs

/-- Where the bytes fit, the buffer takes them in order (R29, R153). -/
theorem overwritePrefix_getD {bytes buf : List Byte} (h : bytes.length ≤ buf.length) {j : Nat} (hj : j < bytes.length)
    (d : Byte) : (overwritePrefix bytes buf).getD j d = bytes.getD j d := by
  rw [overwritePrefix_eq h, List.getD_append _ _ _ _ hj]

/-- R155, R158: a read that succeeds gives bytes that the buffer takes in order. -/
theorem readTxn_run_bytes (a : PeerAddr) {n : Nat} {s : State} (hn : n ≤ s.buf.length) :
    ∃ r t, (readTxn a n).run s = (r, t) ∧
      ∀ vs, r = some vs → ∀ j < n, (overwritePrefix vs t.buf).getD j 0#8 = vs.getD j 0#8 := by
  obtain ⟨ans, m, es, ht, hlength⟩ := (readTxn_ends_length a n).run s
  have hbuf : ((readTxn a n).run s).2.buf = s.buf := by rw [ht]; rfl
  refine ⟨((readTxn a n).run s).1, ((readTxn a n).run s).2, Prod.mk.eta.symm, fun vs hvs j hj => ?_⟩
  have hvs := hlength vs hvs
  exact overwritePrefix_getD (by rwa [hvs, hbuf]) (by rwa [hvs]) 0#8

/-- R53, R80. -/
theorem receivedWord_eq_append (b0 b1 : Byte) : receivedWord b0 b1 = b0 ++ b1 := by
  apply BitVec.eq_of_getLsbD_eq
  intro i hi
  have happend : (b0 ++ b1).getLsbD i = if i < 8 then b1.getLsbD i else b0.getLsbD (i - 8) := BitVec.getLsbD_append
  rw [happend]
  by_cases h : i < 8
  · simp [receivedWord, h, hi]
  · simp [receivedWord, h, hi, BitVec.getLsbD_of_ge b1 i (by omega)]

/-! ### What each read leaves: the trace of its transaction, the flag, and the bytes in its own register -/

section reads

variable {s t : State} {a : PeerAddr} {r : Option (List Byte)}

/-- R156. -/
theorem commandResult_rd1 (h : (readTxn a 1).run s = (r, t)) :
    (s.commandResult (.rd1 a)).trace = t.trace ∧ (s.commandResult (.rd1 a)).ackf = r.isSome ∧
      ∀ vs, r = some vs → (s.commandResult (.rd1 a)).rdata = vs.getD 0 0#8 := by
  rw [State.commandResult_of_run (bodyOf_rd1 s a) h]
  cases r with
  | none => exact ⟨rfl, rfl, nofun⟩
  | some vs => exact ⟨rfl, rfl, by rintro _ ⟨⟩; rfl⟩

/-- R157. -/
theorem commandResult_rd2 (h : (readTxn a 2).run s = (r, t)) :
    (s.commandResult (.rd2 a)).trace = t.trace ∧ (s.commandResult (.rd2 a)).ackf = r.isSome ∧
      ∀ vs, r = some vs → (s.commandResult (.rd2 a)).rword = receivedWord (vs.getD 0 0#8) (vs.getD 1 0#8) := by
  rw [State.commandResult_of_run (bodyOf_rd2 s a) h]
  cases r with
  | none => exact ⟨rfl, rfl, nofun⟩
  | some vs => exact ⟨rfl, rfl, by rintro _ ⟨⟩; rfl⟩

/-- R158. -/
theorem commandResult_rdn {n : Byte} (h : (readTxn a n.toNat).run s = (r, t)) :
    (s.commandResult (.rdn a n)).trace = t.trace ∧ (s.commandResult (.rdn a n)).ackf = r.isSome ∧
      ∀ vs, r = some vs → (s.commandResult (.rdn a n)).buf = overwritePrefix vs t.buf := by
  rw [State.commandResult_of_run (bodyOf_rdn s a n) h]
  cases r with
  | none => exact ⟨rfl, rfl, nofun⟩
  | some vs => exact ⟨rfl, rfl, by rintro _ ⟨⟩; rfl⟩

end reads

theorem wellFormed_rdn {a : PeerAddr} {n : Byte} {depth : Nat} (h1 : 1 ≤ n.toNat) (hn : n.toNat ≤ depth) :
    (Instr.rdn a n).wellFormed depth = true := by
  simp [Instr.wellFormed, h1, hn]

/-- Settles O52: both commands run the same read transaction; they differ in the register that takes the bytes. -/
theorem fixedReadsAreBufferReads : Obligations.FixedReadsAreBufferReads := by
  intro a s h hdepth hbuf
  have hone : 1 ≤ s.cfg.bufDepth := by omega
  have hwf1 : (Instr.rdn a 1).wellFormed s.cfg.bufDepth = true := wellFormed_rdn le_rfl hone
  have hwf2 : (Instr.rdn a 2).wellFormed s.cfg.bufDepth = true := wellFormed_rdn (by decide) hdepth
  refine ⟨⟨_, _, exec_of_readyIn rfl rfl rfl h, exec_of_readyIn rfl rfl hwf1 h, ?one⟩,
    ⟨_, _, exec_of_readyIn rfl rfl rfl h, exec_of_readyIn rfl rfl hwf2 h, ?two⟩⟩
  case one =>
    obtain ⟨r, t, hrun, hbytes⟩ := readTxn_run_bytes a (hone.trans_eq hbuf.symm)
    obtain ⟨htrace, hack, hdata⟩ := commandResult_rd1 hrun
    obtain ⟨htrace', hack', hdata'⟩ := commandResult_rdn (n := 1) hrun
    refine ⟨htrace.trans htrace'.symm, hack.trans hack'.symm, fun hsuccess => ?_⟩
    obtain ⟨vs, hvs⟩ := Option.isSome_iff_exists.1 (hack.symm.trans hsuccess)
    rw [hdata vs hvs, hdata' vs hvs, hbytes vs hvs 0 (by decide)]
  case two =>
    obtain ⟨r, t, hrun, hbytes⟩ := readTxn_run_bytes a (hdepth.trans_eq hbuf.symm)
    obtain ⟨htrace, hack, hdata⟩ := commandResult_rd2 hrun
    obtain ⟨htrace', hack', hdata'⟩ := commandResult_rdn (n := 2) hrun
    refine ⟨htrace.trans htrace'.symm, hack.trans hack'.symm, fun hsuccess => ?_⟩
    obtain ⟨vs, hvs⟩ := Option.isSome_iff_exists.1 (hack.symm.trans hsuccess)
    rw [hdata vs hvs, hdata' vs hvs, hbytes vs hvs 0 (by decide), hbytes vs hvs 1 (by decide), receivedWord_eq_append]

end Sys2Proof.Machine
end

section
/-! The waits, which only join the trace, and the bound they set on its duration (R101, R102, R214); the clock primitives
(R104 to R107). -/

namespace Sys2Proof.Machine

open Sys2Proof

/-- Settles O20: a wait is a micro-operation that leaves both pins as they are. -/
theorem waitsOnlyJoinTheTrace : Obligations.WaitsOnlyJoinTheTrace := fun s =>
  ⟨exec_uop_plain (u := .wStart) rfl (by decide) s, exec_uop_plain (u := .wStop) rfl (by decide) s,
    exec_uop_plain (u := .wLow) rfl (by decide) s, exec_uop_plain (u := .wHigh) rfl (by decide) s,
    exec_uop_plain (u := .wSettle) rfl (by decide) s⟩

/-- Settles O21: each primitive leaves the canonical form of its own law. -/
theorem clockPrimitives : Obligations.ClockPrimitives := fun s =>
  ⟨raiseClock_run s, lowerClock_run s, pulseClock_run s, pulseClockSample_run s⟩

theorem minDuration_cons (c : Config) (u : Uop) (us : List Uop) :
    minDuration c (u :: us) = waitTicks c u + minDuration c us :=
  List.sum_cons

theorem minDuration_singleton (c : Config) (u : Uop) : minDuration c [u] = waitTicks c u :=
  minDuration_cons c u []

/-- R101: a timing that respects the waits lasts at least their sum. -/
theorem minDuration_le_of_timingAllowed {c : Config} {us : List Uop} {u v : Uop} {times : List Nat} {t0 t1 : Nat}
    (hlen : times.length = us.length) (h : timingAllowed c ((u, t0) :: (us.zip times ++ [(v, t1)]))) :
    t0 + minDuration c (u :: us) ≤ t1 := by
  induction us generalizing u t0 times with
  | nil =>
    obtain ⟨hwait, -⟩ := h
    rwa [minDuration_singleton]
  | cons w us ih =>
    cases times with
    | nil => cases hlen
    | cons t times =>
      obtain ⟨hwait, hrest⟩ := h
      have hle := ih (Nat.succ.inj hlen) hrest
      rw [minDuration_cons]
      omega

/-- The timing in which every item takes effect as soon as the wait before it is over lasts just their sum (log 9). -/
theorem exists_timingAllowed_minDuration (c : Config) (us : List Uop) (u v : Uop) (t0 : Nat) :
    ∃ times : List Nat, times.length = us.length ∧
      timingAllowed c ((u, t0) :: (us.zip times ++ [(v, t0 + minDuration c (u :: us))])) := by
  induction us generalizing u t0 with
  | nil => exact ⟨[], rfl, by rw [minDuration_singleton], trivial⟩
  | cons w us ih =>
    obtain ⟨times, hlen, htiming⟩ := ih w (t0 + waitTicks c u)
    rw [Nat.add_assoc, ← minDuration_cons] at htiming
    exact ⟨(t0 + waitTicks c u) :: times, congrArg Nat.succ hlen, le_rfl, htiming⟩

/-- Settles O48: the sum is a lower bound, and a timing reaches it. -/
theorem waitsAreLowerBounds : Obligations.WaitsAreLowerBounds := fun c us u v =>
  ⟨fun _ _ _ hlen h => minDuration_le_of_timingAllowed hlen h, exists_timingAllowed_minDuration c us u v⟩

end Sys2Proof.Machine
end

section
/-! No instruction reads the pin identities or the durations (R22, R102). -/

namespace Sys2Proof.Machine

open Sys2Proof

/-- The machine with the seven values of R22 taken from `c`; the parameters R9 adds stay its own. -/
def State.rebound (c : Config) (s : State) : State :=
  { s with cfg := { c with bufDepth := s.cfg.bufDepth, resolveSda := s.cfg.resolveSda } }

theorem State.rebound_eq {c : Config} {s : State} (hdepth : c.bufDepth = s.cfg.bufDepth)
    (hresolve : c.resolveSda = s.cfg.resolveSda) : s.rebound c = { s with cfg := c } := by
  rw [State.rebound, ← hdepth, ← hresolve]

theorem State.perform_rebound (c : Config) (s : State) (u : Uop) :
    (s.rebound c).perform u = (s.perform u).rebound c := by
  cases u <;> rfl

theorem RegisterWrite.rebound {f : State → State} (h : RegisterWrite f) (c : Config) (s : State) :
    f (s.rebound c) = (f s).rebound c := by
  cases h <;> rfl

theorem bodyOf_rebound (i : Instr) (c : Config) (s : State) : bodyOf i (s.rebound c) = bodyOf i s := by
  cases i <;> rfl

/-- R102: what an accepted command does is the same on other pins and with other durations. -/
theorem State.commandResult_rebound (i : Instr) (c : Config) (s : State) :
    (s.rebound c).commandResult i = (s.commandResult i).rebound c := by
  let u := s.loadOperands (commandWord i)
  have hrun : (bodyOf i (u.rebound c)).run (u.rebound c) =
      (((bodyOf i u).run u).1, ((bodyOf i u).run u).2.rebound c) := by
    rw [bodyOf_rebound, Prog.run_update (g := State.rebound c) (State.perform_rebound c) fun _ => rfl]
  obtain ⟨_, _, _, -, hf⟩ := (bodyOf_ends_registerWrite i u).run u
  exact (congrArg (fun r => r.1 r.2) hrun).trans (hf.rebound c _)

theorem exec_rebound {i : Instr} {s t : State} (c : Config) (h : exec i s = .next t) :
    exec i (s.rebound c) = .next (t.rebound c) := by
  cases exec_cases h with
  | uop u hu => rw [exec_uop hu, State.perform_rebound]
  | notAccepted hi hs => exact exec_command_busy hi hs
  | completed hi hs ho =>
    have ho : (s.rebound c).objection i = none := ho
    rw [exec_command_accepted (s := s.rebound c) hi hs ho, State.commandResult_rebound]

/-- Settles O42: an instruction keeps the configuration, so the two parameters of R9 agree after it as well. -/
theorem traceDoesNotDependOnTheConfiguration : Obligations.TraceDoesNotDependOnTheConfiguration := by
  intro i s t c hdepth hresolve h
  obtain ⟨hcfg, -⟩ := exec_frame h
  rw [← State.rebound_eq hdepth hresolve, exec_rebound c h,
    State.rebound_eq (by rw [hdepth, hcfg]) (by rw [hresolve, hcfg])]

end Sys2Proof.Machine
end

section
/-! The trace of each command and outcome, said once (R88, R120, R121, R130, R140, R154, R155). -/

namespace Sys2Proof.Machine

open Sys2Proof

/-! ### The transactions, whatever `resolve_sda` says -/

/-- R154, R160, R162: all bytes acknowledged and the transaction's own stop, or bytes up to a first refusal. -/
theorem writeTxn_run_cases (a : PeerAddr) (bytes : List Byte) (s : State) (hc : s.scl = highPin) (hd : s.sda = highPin) :
    (∃ ans, (writeTxn a bytes).run s =
      (true, s.ran highPin highPin ans (bytes.length + 1)
        (startEvents ++ ackedEvents (addressByte a .write :: bytes) ++ stopEvents))) ∨
    (∃ us w ws, addressByte a .write :: bytes = us ++ w :: ws ∧
      (writeTxn a bytes).run s =
        (false, s.ran highPin highPin .high (us.length + 1)
          (startEvents ++ ackedEvents us ++ writeByteEvents w .high))) := by
  let t := s.ran lowPin lowPin s.uopAns 0 startEvents
  have ht : startSeq.run s = ((), t) := by simp [t, hc, hd, Pin.set]
  rw [writeTxn, Prog.run_andThen, ht, Prog.run_bind]
  rcases writeBytes_run_cases (addressByte a .write :: bytes) t rfl rfl with ⟨ans, hw⟩ | ⟨us, w, ws, hbytes, hw⟩
  · exact .inl ⟨ans, by simp [hw, t, Pin.set]⟩
  · exact .inr ⟨us, w, ws, hbytes, by simp [hw, t]⟩

/-- R155, R160, R162: the address byte acknowledged, `n` bytes of some eight samples each and the stop, or the address
byte refused. -/
theorem readTxn_run_cases (a : PeerAddr) (n : Nat) (s : State) (hc : s.scl = highPin) (hd : s.sda = highPin) :
    (∃ (samples : List (List Level)) (ans : Level), samples.length = n ∧ (∀ bs ∈ samples, bs.length = 8) ∧
      (readTxn a n).run s =
        (some (samples.map fun bs => bs.foldl shiftIn 0#8), s.ran highPin highPin ans (1 + 8 * n)
          (startEvents ++ writeByteEvents (addressByte a .read) .low ++ samples.flatMap readByteEvents ++ stopEvents))) ∨
    (readTxn a n).run s =
      (none, s.ran highPin highPin .high 1 (startEvents ++ writeByteEvents (addressByte a .read) .high)) := by
  let t := s.ran lowPin lowPin s.uopAns 0 startEvents
  have ht : startSeq.run s = ((), t) := by simp [t, hc, hd, Pin.set]
  rw [readTxn, Prog.run_andThen, ht, Prog.run_bind, writeByte_run_sample t _ rfl rfl]
  cases t.ackSample (addressByte a .read) with
  | high => exact .inr (by simp [acknowledged, t])
  | low =>
    obtain ⟨samples, ans, hlen, height, hread⟩ :=
      readBytes_run_some n (t.ran lowPin lowPin .low 1 (writeByteEvents (addressByte a .read) .low)) rfl rfl
    refine .inl ⟨samples, ans, hlen, height, ?_⟩
    simp only [acknowledged, if_true, Prog.run_bind, Prog.run_andThen, hread]
    simp [t, Pin.set]

/-! ### The commands -/

/-- The bytes a read transaction asks for, and the peer it addresses (R156 to R158). -/
def readRequest : Instr → Option (PeerAddr × Nat)
  | .rd1 a => some (a, 1)
  | .rd2 a => some (a, 2)
  | .rdn a n => some (a, n.toNat)
  | _ => none

/-- The items `es` a command `i` begun in `s` adds to the trace, with the flag `ok` it leaves: one case per command and
outcome (R88). `START`, `STOP` and `RDB` leave the flag as it was. -/
inductive CommandTrace (s : State) : Instr → Bool → List Event → Prop
  | start (ok : Bool) : CommandTrace s .start ok startEvents
  | stop (ok : Bool) : CommandTrace s .stop ok stopEvents
  | wrb (v : Byte) (ack : Level) : CommandTrace s (.wrb v) (acknowledged ack) (writeByteEvents v ack)
  | rdb (ok : Bool) (bs : List Level) : bs.length = 8 → CommandTrace s .rdb ok (readByteEvents bs)
  | wrtAcked (a : PeerAddr) (n : Byte) :
      CommandTrace s (.wrt a n) true
        (startEvents ++ ackedEvents (addressByte a .write :: s.bufPrefix n) ++ stopEvents)
  | wrtRefused (a : PeerAddr) (n : Byte) (us : List Byte) (w : Byte) (ws : List Byte) :
      addressByte a .write :: s.bufPrefix n = us ++ w :: ws →
      CommandTrace s (.wrt a n) false (startEvents ++ ackedEvents us ++ writeByteEvents w .high)
  | readAcked (i : Instr) (a : PeerAddr) (n : Nat) (samples : List (List Level)) :
      readRequest i = some (a, n) → samples.length = n → (∀ bs ∈ samples, bs.length = 8) →
      CommandTrace s i true
        (startEvents ++ writeByteEvents (addressByte a .read) .low ++ samples.flatMap readByteEvents ++ stopEvents)
  | readRefused (i : Instr) (a : PeerAddr) (n : Nat) : readRequest i = some (a, n) →
      CommandTrace s i false (startEvents ++ writeByteEvents (addressByte a .read) .high)

theorem bodyOf_wrt (s : State) (a : PeerAddr) (n : Byte) :
    bodyOf (.wrt a n) (s.loadOperands (commandWord (.wrt a n))) = wrtBody a (s.bufPrefix n) :=
  congrArg₂ wrtBody (CmdWord.addr_assemble _ _ a n _) (congrArg s.bufPrefix (CmdWord.len_assemble _ _ a n _))

/-- A command whose program runs to a canonical form adds the items of that form to the trace. -/
theorem commandTrace_of_run {α : Type} {s : State} {i : Instr} {p : Prog α} {w : α → State → State} {x : α}
    {scl sda : Pin} {ans : Level} {n : Nat} {es : List Event}
    (hbody : bodyOf i (s.loadOperands (commandWord i)) = p.bind fun x => .ret (w x))
    (hrun : p.run s = (x, s.ran scl sda ans n es)) (hw : RegisterWrite (w x))
    (h : CommandTrace s i (w x ((s.ran scl sda ans n es).loadOperands (commandWord i))).ackf es) :
    CommandTrace s i (s.commandResult i).ackf (s.newEvents (s.commandResult i)) := by
  rw [State.commandResult_of_run hbody hrun, newEvents_of_log (hw.log _)]
  exact h

@[simp] theorem State.ran_trace (s : State) (scl sda : Pin) (ans : Level) (n : Nat) (es : List Event) :
    (s.ran scl sda ans n es).trace = s.trace ++ es := by
  simp [State.trace]

theorem newEvents_of_trace {s t : State} {es : List Event} (h : t.trace = s.trace ++ es) : s.newEvents t = es :=
  newEvents_of_log (List.reverse_injective (by simpa [State.trace] using h))

/-- The three reads differ only in the register that takes the bytes (R156 to R158). -/
theorem commandResult_of_readRequest {s t : State} {i : Instr} {a : PeerAddr} {n : Nat} {r : Option (List Byte)}
    (hi : readRequest i = some (a, n)) (h : (readTxn a n).run s = (r, t)) :
    (s.commandResult i).trace = t.trace ∧ (s.commandResult i).ackf = r.isSome := by
  cases i <;> cases hi
  case rd1 =>
    obtain ⟨htrace, hack, -⟩ := commandResult_rd1 h
    exact ⟨htrace, hack⟩
  case rd2 =>
    obtain ⟨htrace, hack, -⟩ := commandResult_rd2 h
    exact ⟨htrace, hack⟩
  case rdn =>
    obtain ⟨htrace, hack, -⟩ := commandResult_rdn h
    exact ⟨htrace, hack⟩

theorem commandTrace_of_readTxn {s : State} {i : Instr} {a : PeerAddr} {n : Nat} {r : Option (List Byte)}
    {scl sda : Pin} {ans : Level} {m : Nat} {es : List Event} (hi : readRequest i = some (a, n))
    (hrun : (readTxn a n).run s = (r, s.ran scl sda ans m es)) (h : CommandTrace s i r.isSome es) :
    CommandTrace s i (s.commandResult i).ackf (s.newEvents (s.commandResult i)) := by
  obtain ⟨htrace, hack⟩ := commandResult_of_readRequest hi hrun
  rw [hack, newEvents_of_trace (htrace.trans (s.ran_trace scl sda ans m es))]
  exact h

theorem commandTrace_commandResult {s : State} {i : Instr} {b : BusState} (hb : neededBusState i = some b)
    (hpins : s.scl = restPin b ∧ s.sda = restPin b) :
    CommandTrace s i (s.commandResult i).ackf (s.newEvents (s.commandResult i)) := by
  obtain ⟨hscl, hsda⟩ := hpins
  have read {a : PeerAddr} {n : Nat} (hi : readRequest i = some (a, n)) (hb : b = .idle) :
      CommandTrace s i (s.commandResult i).ackf (s.newEvents (s.commandResult i)) := by
    subst hb
    rcases readTxn_run_cases a n s hscl hsda with ⟨samples, ans, hlen, height, hrun⟩ | hrun
    · exact commandTrace_of_readTxn hi hrun (.readAcked i a n samples hi hlen height)
    · exact commandTrace_of_readTxn hi hrun (.readRefused i a n hi)
  cases i <;> cases hb
  case start => exact commandTrace_of_run (w := fun _ => id) rfl (startSeq_run s) .nothing (.start _)
  case stop => exact commandTrace_of_run (w := fun _ => id) rfl (stopSeq_run s) .nothing (.stop _)
  case wrb v =>
    have hbody : bodyOf (.wrb v) (s.loadOperands (commandWord (.wrb v))) = wrbBody v :=
      congrArg wrbBody (CmdWord.data_assemble _ _ _ _ v)
    exact commandTrace_of_run hbody (writeByte_run_sample s v hscl hsda) (.flag _) (.wrb v _)
  case rdb =>
    obtain ⟨bs, ans, hlen, hrun⟩ := readByte_run_some s hscl hsda
    exact commandTrace_of_run rfl hrun (.byte _) (.rdb _ bs hlen)
  case wrt a n =>
    rcases writeTxn_run_cases a (s.bufPrefix n) s hscl hsda with ⟨ans, hrun⟩ | ⟨us, w, ws, hbytes, hrun⟩
    · exact commandTrace_of_run (bodyOf_wrt s a n) hrun (.flag true) (.wrtAcked a n)
    · exact commandTrace_of_run (bodyOf_wrt s a n) hrun .nack (.wrtRefused a n us w ws hbytes)
  case rd1 | rd2 | rdn => exact read rfl rfl

/-- R41, R201: a command that can begin finds both pins at rest. -/
theorem pins_of_readyIn {s : State} {i : Instr} {b : BusState} (hb : neededBusState i = some b) (h : s.readyIn b) :
    s.scl = restPin b ∧ s.sda = restPin b := by
  cases b with
  | idle => exact pins_of_readyIn_idle h
  | busy => exact pins_of_readyIn_busy h
  | transitioning => cases i <;> cases hb

/-- What a command begun within its contract adds to the trace, and the flag it leaves. -/
theorem commandTrace_of_exec {s t : State} {i : Instr} {b : BusState} (hb : neededBusState i = some b)
    (hready : s.readyIn b) (h : exec i s = .next t) : CommandTrace s i t.ackf (s.newEvents t) := by
  have hpins := pins_of_readyIn hb hready
  obtain ⟨hseq, -⟩ := hready
  cases exec_cases h with
  | uop u hu => cases i <;> cases hb <;> cases hu
  | notAccepted _ hrun => exact absurd hseq hrun
  | completed => exact commandTrace_commandResult hb hpins

end Sys2Proof.Machine
end

section
/-! The START and STOP conditions of each command: no other change of the data pin while the clock is high (R16, R109,
R124, R162). -/

namespace Sys2Proof.Machine

open Sys2Proof

theorem conditions_append (scl sda : Pin) (us vs : List Uop) :
    conditions scl sda (us ++ vs) =
      conditions scl sda us ++ conditions (pinsAfter scl sda us).1 (pinsAfter scl sda us).2 vs := by
  induction us generalizing scl sda with
  | nil => rfl
  | cons u us ih => rw [List.cons_append, conditions, ih, conditions, List.append_assoc, pinsAfter]

/-- The items `es` of a trace take the two pins from `before` to `after` (R61) and make the conditions `cs` on the way
(R109). -/
structure Makes (before after : Pin × Pin) (es : List Event) (cs : List Condition) : Prop where
  pins : pinsAfter before.1 before.2 (uopsOf es) = after
  made : conditions before.1 before.2 (uopsOf es) = cs

theorem Makes.append {p q r : Pin × Pin} {es fs : List Event} {cs ds : List Condition} (h : Makes p q es cs)
    (h' : Makes q r fs ds) : Makes p r (es ++ fs) (cs ++ ds) := by
  obtain ⟨rfl, rfl⟩ := h
  obtain ⟨rfl, rfl⟩ := h'
  exact ⟨by rw [uopsOf, List.map_append, pinsAfter_append]; rfl, by rw [uopsOf, List.map_append, conditions_append]; rfl⟩

theorem Makes.flatMap {α : Type} {p : Pin × Pin} {f : α → List Event} (h : ∀ x, Makes p p (f x) []) (xs : List α) :
    Makes p p (xs.flatMap f) [] := by
  induction xs with
  | nil => exact ⟨rfl, rfl⟩
  | cons x xs ih => exact (h x).append ih

/-! ### The parts of the traces -/

/-- R120: the START condition. -/
theorem startEvents_makes : Makes (highPin, highPin) (lowPin, lowPin) startEvents [.start] := ⟨rfl, rfl⟩

/-- R121: the STOP condition. -/
theorem stopEvents_makes : Makes (lowPin, lowPin) (highPin, highPin) stopEvents [.stop] := ⟨rfl, rfl⟩

/-- R109: a data bit changes the data pin while the clock is low. -/
theorem bitEvents_makes (b : Bool) (l : Level) :
    Makes (lowPin, ⟨.output, l⟩) (lowPin, ⟨.output, levelOfBit b⟩) (bitEvents b) [] := by
  cases b <;> cases l <;> exact ⟨rfl, rfl⟩

theorem bitsEvents_makes (bs : List Bool) (l : Level) :
    ∃ l', Makes (lowPin, ⟨.output, l⟩) (lowPin, ⟨.output, l'⟩) (bs.flatMap bitEvents) [] := by
  induction bs generalizing l with
  | nil => exact ⟨l, rfl, rfl⟩
  | cons b bs ih =>
    obtain ⟨l', h⟩ := ih (levelOfBit b)
    exact ⟨l', (bitEvents_makes b l).append h⟩

theorem samplePulseEvents_makes (b : Level) :
    Makes (lowPin, ⟨.inputPullup, .low⟩) (lowPin, ⟨.inputPullup, .low⟩) (samplePulseEvents b) [] := ⟨rfl, rfl⟩

/-- The part of `WriteByte` after the data bits: the acknowledge sample, and the stop after a `HIGH` (R130, R133). -/
def ackEvents (ack : Level) : List Event :=
  plain [.dIn, .wSettle] ++ samplePulseEvents ack ++ plain [.d0, .dOut] ++ if acknowledged ack then [] else stopEvents

theorem writeByteEvents_eq (v : Byte) (ack : Level) :
    writeByteEvents v ack = (bitsMsbFirst v).flatMap bitEvents ++ ackEvents ack := by
  cases ack <;> simp [writeByteEvents, ackEvents, bitsMsbFirst, acknowledged]

theorem writeByteEvents_low_makes (v : Byte) : Makes (lowPin, lowPin) (lowPin, lowPin) (writeByteEvents v .low) [] := by
  obtain ⟨l, hbits⟩ := bitsEvents_makes (bitsMsbFirst v) .low
  have hack : Makes (lowPin, ⟨.output, l⟩) (lowPin, lowPin) (ackEvents .low) [] := by cases l <;> exact ⟨rfl, rfl⟩
  rw [writeByteEvents_eq]
  exact hbits.append hack

/-- R133: a refused byte brings its own stop. -/
theorem writeByteEvents_high_makes (v : Byte) :
    Makes (lowPin, lowPin) (highPin, highPin) (writeByteEvents v .high) [.stop] := by
  obtain ⟨l, hbits⟩ := bitsEvents_makes (bitsMsbFirst v) .low
  have hack : Makes (lowPin, ⟨.output, l⟩) (highPin, highPin) (ackEvents .high) [.stop] := by
    cases l <;> exact ⟨rfl, rfl⟩
  rw [writeByteEvents_eq]
  exact hbits.append hack

theorem readByteEvents_makes (bs : List Level) : Makes (lowPin, lowPin) (lowPin, lowPin) (readByteEvents bs) [] := by
  have hrelease : Makes (lowPin, lowPin) (lowPin, ⟨.inputPullup, .low⟩) (plain [.dIn, .wSettle]) [] := ⟨rfl, rfl⟩
  have hdrive : Makes (lowPin, ⟨.inputPullup, .low⟩) (lowPin, lowPin) (plain [.d0, .dOut]) [] := ⟨rfl, rfl⟩
  have hpulse : Makes (lowPin, lowPin) (lowPin, lowPin) pulseEvents [] := ⟨rfl, rfl⟩
  exact ((hrelease.append (Makes.flatMap samplePulseEvents_makes bs)).append hdrive).append hpulse

/-! ### The commands -/

theorem ackedEvents_makes (vs : List Byte) : Makes (lowPin, lowPin) (lowPin, lowPin) (ackedEvents vs) [] :=
  Makes.flatMap writeByteEvents_low_makes vs

/-- Settles O44: the conditions of each command and outcome are those of the parts of its trace, in order. -/
theorem startAndStopConditionsOfEachCommand : Obligations.StartAndStopConditionsOfEachCommand := by
  intro i s t b hb hready h
  have htrace := commandTrace_of_exec hb hready h
  obtain ⟨hscl, hsda⟩ := pins_of_readyIn hb hready
  rw [hscl, hsda]
  generalize s.newEvents t = es at htrace ⊢
  generalize t.ackf = ok at htrace ⊢
  cases htrace with
  | start => cases hb; exact startEvents_makes.made
  | stop => cases hb; exact stopEvents_makes.made
  | wrb v ack =>
    cases hb
    cases ack with
    | low => exact (writeByteEvents_low_makes v).made
    | high => exact (writeByteEvents_high_makes v).made
  | rdb _ bs => cases hb; exact (readByteEvents_makes bs).made
  | wrtAcked a n => cases hb; exact ((startEvents_makes.append (ackedEvents_makes _)).append stopEvents_makes).made
  | wrtRefused a n us w =>
    cases hb
    exact ((startEvents_makes.append (ackedEvents_makes us)).append (writeByteEvents_high_makes w)).made
  | readAcked _ a n samples hi =>
    have hmade := (((startEvents_makes.append (writeByteEvents_low_makes (addressByte a .read))).append
      (Makes.flatMap readByteEvents_makes samples)).append stopEvents_makes).made
    cases i <;> cases hi
    all_goals
      cases hb
      exact hmade
  | readRefused _ a n hi =>
    have hmade := (startEvents_makes.append (writeByteEvents_high_makes (addressByte a .read))).made
    cases i <;> cases hi
    all_goals
      cases hb
      exact hmade

end Sys2Proof.Machine
end

section
/-! `START` and `STOP` as whole commands, and the bus state a command leaves (R120 to R124, R133, R150). -/

namespace Sys2Proof.Machine

open Sys2Proof

/-- Settles O22: the start sequence, run from both pins high. -/
theorem startTakesTheBus : Obligations.StartTakesTheBus := by
  intro s h
  obtain ⟨hscl, hsda⟩ := pins_of_readyIn_idle h
  have hload (t : State) : t.loadOperands (commandWord .start) = t.setOperands 0 0 0 := loadOperands_assemble t _ _ _ _
  rw [exec_of_readyIn rfl rfl rfl h, State.commandResult_of_run (w := fun _ => id) rfl (startSeq_run s), hload, hscl,
    hsda]
  rfl

/-- Settles O23: the stop sequence, run from both pins low. -/
theorem stopReleasesTheBus : Obligations.StopReleasesTheBus := by
  intro s h
  obtain ⟨hscl, hsda⟩ := pins_of_readyIn_busy h
  have hload (t : State) : t.loadOperands (commandWord .stop) = t.setOperands 0 0 0 := loadOperands_assemble t _ _ _ _
  rw [exec_of_readyIn rfl rfl rfl h, State.commandResult_of_run (w := fun _ => id) rfl (stopSeq_run s), hload, hscl,
    hsda]
  rfl

/-! ### The bus state a command leaves -/

/-- The bus state a completed command leaves, by the flag after it (R122, R123, R133, R144, R150): `Busy` after `START`,
`RDB` and an acknowledged `WRB`, else `Idle`. A micro-operation is no command; the value given for it is not used. -/
def busStateAfter : Instr → Bool → BusState
  | .start, _ | .rdb, _ | .wrb _, true => .busy
  | _, _ => .idle

/-- From the pins of the bus state it needs, a command's program leads to those of the bus state it leaves, whatever the
samples answer. -/
theorem bodyOf_leads_busStateAfter {i : Instr} {b : BusState} (hb : neededBusState i = some b) (s : State) :
    (bodyOf i s).leads (restPin b, restPin b) fun f pins =>
      ∀ u : State, busStateOf pins.1 pins.2 = busStateAfter i (f u).ackf := by
  cases i <;> cases hb
  case start => exact leads_andThen (startSeq_leads ((leads_ret _ _ _).2 fun _ => rfl))
  case stop => exact leads_andThen (stopSeq_leads ((leads_ret _ _ _).2 fun _ => rfl))
  case wrb =>
    exact leads_bind (writeByte_leads _ ((leads_ret _ _ _).2 fun _ => rfl) ((leads_ret _ _ _).2 fun _ => rfl))
  case rdb => exact leads_bind (readByte_leads fun _ => (leads_ret _ _ _).2 fun _ => rfl)
  case wrt => exact leads_bind (writeTxn_leads _ _ fun _ => (leads_ret _ _ _).2 fun _ => rfl)
  case rd1 | rd2 | rdn => exact leads_bind (readTxn_leads _ _ fun _ => (leads_ret _ _ _).2 fun _ => rfl)

/-- The bus state and the flag after an accepted command go together. -/
theorem State.commandResult_busState {i : Instr} {s : State} {b : BusState} (hb : neededBusState i = some b)
    (ho : s.objection i = none) : (s.commandResult i).busState = busStateAfter i (s.commandResult i).ackf := by
  obtain ⟨f, ans, n, es, hf, ⟨-, hafter⟩, ht⟩ :=
    State.commandResult_of_ends (bodyOf_leads_busStateAfter hb (s.loadOperands (commandWord i)))
  obtain ⟨hscl, hsda⟩ := pins_of_objection_none hb ho
  rw [hscl, hsda] at ht
  rw [ht, State.busState, hf.scl, hf.sda]
  exact hafter _

/-- A command that is not accepted keeps the bus state (R34); any other goes from the one it needs (R201) to the one it
leaves. -/
theorem exec_command_busState {i : Instr} {s t : State} (hi : i.isCommand = true) (h : exec i s = .next t) :
    t.busState = s.busState ∨ neededBusState i = some s.busState ∧ t.busState = busStateAfter i t.ackf := by
  cases exec_cases h with
  | uop u hu => rw [uopOf_of_isCommand hi] at hu; cases hu
  | notAccepted => exact .inl rfl
  | completed _ _ ho =>
    obtain ⟨b, hb⟩ := neededBusState_of_isCommand hi
    obtain ⟨-, hbus⟩ := objection_none_inv hb ho
    exact .inr ⟨by rw [hb, hbus], State.commandResult_busState hb ho⟩

/-- Of the commands that need `Idle`, only `START` leaves the bus `Busy` (R124, R150). -/
theorem eq_start_of_busStateAfter_busy {i : Instr} {ok : Bool} (hb : neededBusState i = some .idle)
    (h : busStateAfter i ok = .busy) : i = .start := by
  cases i <;> cases hb
  case start => rfl
  all_goals cases h

/-- Of the commands that need `Busy`, only `STOP` and a refused `WRB` leave the bus `Idle` (R124, R133). -/
theorem eq_stop_or_refused_of_busStateAfter_idle {i : Instr} {ok : Bool} (hb : neededBusState i = some .busy)
    (h : busStateAfter i ok = .idle) : i = .stop ∨ ∃ d, i = .wrb d ∧ ok = false := by
  cases i <;> cases hb
  case stop => exact .inl rfl
  case rdb => cases h
  case wrb d =>
    cases ok with
    | true => cases h
    | false => exact .inr ⟨d, rfl, rfl⟩

/-- Settles O40: a command keeps the bus state, or goes from the one it needs to the one it leaves. -/
theorem onlyStartTakesAndOnlyStopReleasesTheBus : Obligations.OnlyStartTakesAndOnlyStopReleasesTheBus := by
  intro i s t hi h
  rcases exec_command_busState hi h with hkeeps | ⟨hneeds, hleaves⟩
  · rw [hkeeps]
    exact ⟨fun hidle hbusy => absurd (hidle.symm.trans hbusy) (by decide),
      fun hbusy hidle => absurd (hbusy.symm.trans hidle) (by decide)⟩
  · exact ⟨fun hidle hbusy => eq_start_of_busStateAfter_busy (hidle ▸ hneeds) (hleaves.symm.trans hbusy),
      fun hbusy hidle => eq_stop_or_refused_of_busStateAfter_idle (hbusy ▸ hneeds) (hleaves.symm.trans hidle)⟩

end Sys2Proof.Machine
end

section
/-! `WRB` as a whole command, on the environment's answer (R130, R131, R133). -/

namespace Sys2Proof.Machine

open Sys2Proof

/-- Settles O24: the acknowledge sampled is the environment's answer, and it decides the pins and the flag. -/
theorem writeByteSendsAndSamplesAcknowledge : Obligations.WriteByteSendsAndSamplesAcknowledge := by
  intro d s h hr
  rw [exec_wrb_of_readyIn d h, s.ackSample_eq hr]
  constructor
  · intro hlow
    rw [hlow]
    rfl
  · intro hhigh
    rw [hhigh]
    rfl

end Sys2Proof.Machine
end

section
/-! The sizes of the traces: micro-operations, untimed items, pulses and samples (R103, R110, R132, R143, R159,
R213). -/

namespace Sys2Proof.Machine

open Sys2Proof

/-! ### Sizes add up along a trace -/

/-- Whether a `C1` waits for its `C0` after the micro-operations, where `high` says so before them: the part of the
pulse count (R110) that crosses from one part of a trace to the next. -/
def clockHighAfter : Bool → List Uop → Bool
  | high, [] => high
  | _, .c1 :: us => clockHighAfter true us
  | _, .c0 :: us => clockHighAfter false us
  | high, _ :: us => clockHighAfter high us

theorem clockHighAfter_append (high : Bool) (us vs : List Uop) :
    clockHighAfter high (us ++ vs) = clockHighAfter (clockHighAfter high us) vs := by
  induction us generalizing high with
  | nil => rfl
  | cons u us ih => cases u <;> exact ih _

theorem pulsesFrom_append (high : Bool) (us vs : List Uop) :
    pulsesFrom high (us ++ vs) = pulsesFrom high us + pulsesFrom (clockHighAfter high us) vs := by
  induction us generalizing high with
  | nil => exact (Nat.zero_add _).symm
  | cons u us ih =>
    cases u
    case c0 => exact (congrArg _ (ih false)).trans (Nat.add_assoc _ _ _).symm
    all_goals exact ih _

/-- The four numbers R213's table gives of a trace. -/
def traceSize (us : List Uop) : Nat × Nat × Nat × Nat :=
  (us.length, (untimed us).length, pulses us, sampleCount us)

theorem traceSize_append {us : List Uop} (h : clockHighAfter false us = false) (vs : List Uop) :
    traceSize (us ++ vs) = traceSize us + traceSize vs := by
  simp [traceSize, untimed, pulses, sampleCount, pulsesFrom_append, h]

/-- The items `es` have the four sizes `size`, and `high` says whether they end with a `C1` that waits for its `C0`. -/
structure Measures (es : List Event) (size : Nat × Nat × Nat × Nat) (high : Bool) : Prop where
  size_eq : traceSize (uopsOf es) = size
  clock : clockHighAfter false (uopsOf es) = high

theorem Measures.append {es fs : List Event} {m n : Nat × Nat × Nat × Nat} {high : Bool} (h : Measures es m false)
    (h' : Measures fs n high) : Measures (es ++ fs) (m + n) high := by
  have huops : uopsOf (es ++ fs) = uopsOf es ++ uopsOf fs := List.map_append
  constructor
  · rw [huops, traceSize_append h.clock, h.size_eq, h'.size_eq]
  · rw [huops, clockHighAfter_append, h.clock, h'.clock]

theorem Measures.flatMap {α : Type} {xs : List α} {f : α → List Event} {a b c d : Nat}
    (h : ∀ x ∈ xs, Measures (f x) (a, b, c, d) false) :
    Measures (xs.flatMap f) (a * xs.length, b * xs.length, c * xs.length, d * xs.length) false := by
  induction xs with
  | nil => exact ⟨rfl, rfl⟩
  | cons x xs ih =>
    obtain ⟨hx, hxs⟩ := List.forall_mem_cons.1 h
    have hsize : (a, b, c, d) + (a * xs.length, b * xs.length, c * xs.length, d * xs.length) =
        (a * (x :: xs).length, b * (x :: xs).length, c * (x :: xs).length, d * (x :: xs).length) := by
      simp only [Prod.mk_add_mk, List.length_cons, Nat.mul_add_one, Nat.add_comm]
    rw [← hsize]
    exact hx.append (ih hxs)

/-! ### The parts of the traces -/

/-- R120. -/
theorem startEvents_measures : Measures startEvents (3, 2, 0, 0) false := ⟨rfl, rfl⟩

/-- R121: the stop leaves the clock high, so its `C1` begins no pulse. -/
theorem stopEvents_measures : Measures stopEvents (5, 2, 0, 0) true := ⟨rfl, rfl⟩

theorem bitEvents_measures (b : Bool) : Measures (bitEvents b) (5, 3, 1, 0) false := by
  cases b <;> exact ⟨rfl, rfl⟩

theorem bitsMsbFirst_measures (v : Byte) : Measures ((bitsMsbFirst v).flatMap bitEvents) (40, 24, 8, 0) false :=
  Measures.flatMap fun b _ => bitEvents_measures b

/-- R132: the byte acknowledged. -/
theorem writeByteEvents_low_measures (v : Byte) : Measures (writeByteEvents v .low) (49, 30, 9, 1) false := by
  have hack : Measures (ackEvents .low) (9, 6, 1, 1) false := ⟨rfl, rfl⟩
  rw [writeByteEvents_eq]
  exact (bitsMsbFirst_measures v).append hack

/-- R132: the byte refused, its own stop included. -/
theorem writeByteEvents_high_measures (v : Byte) : Measures (writeByteEvents v .high) (54, 32, 9, 1) true := by
  have hack : Measures (ackEvents .high) (14, 8, 1, 1) true := ⟨rfl, rfl⟩
  rw [writeByteEvents_eq]
  exact (bitsMsbFirst_measures v).append hack

/-- R143. -/
theorem readByteEvents_measures {bs : List Level} (h : bs.length = 8) :
    Measures (readByteEvents bs) (48, 29, 9, 8) false := by
  have hrelease : Measures (plain [.dIn, .wSettle]) (2, 1, 0, 0) false := ⟨rfl, rfl⟩
  have hsamples : Measures (bs.flatMap samplePulseEvents) (5 * bs.length, 3 * bs.length, 1 * bs.length, 1 * bs.length)
      false := Measures.flatMap fun b _ => ⟨rfl, rfl⟩
  have hdrive : Measures (plain [.d0, .dOut]) (2, 2, 0, 0) false := ⟨rfl, rfl⟩
  have hpulse : Measures pulseEvents (4, 2, 1, 0) false := ⟨rfl, rfl⟩
  rw [h] at hsamples
  exact ((hrelease.append hsamples).append hdrive).append hpulse

/-! ### The transactions -/

theorem ackedEvents_measures (vs : List Byte) :
    Measures (ackedEvents vs) (49 * vs.length, 30 * vs.length, 9 * vs.length, 1 * vs.length) false :=
  Measures.flatMap fun v _ => writeByteEvents_low_measures v

/-- R159: a `WRT` of `vs.length` bytes with the address byte, all acknowledged. -/
theorem traceSize_writeTxn_acked (v : Byte) (vs : List Byte) :
    traceSize (uopsOf (startEvents ++ ackedEvents (v :: vs) ++ stopEvents)) =
      (49 * vs.length + 57, 30 * vs.length + 34, 9 * (vs.length + 1), vs.length + 1) := by
  rw [((startEvents_measures.append (ackedEvents_measures (v :: vs))).append stopEvents_measures).size_eq]
  simp only [Prod.mk_add_mk, List.length_cons, Prod.mk.injEq]
  omega

/-- R159: a `WRT` refused at the byte after `us`. -/
theorem traceSize_writeTxn_refused (us : List Byte) (w : Byte) :
    traceSize (uopsOf (startEvents ++ ackedEvents us ++ writeByteEvents w .high)) =
      (49 * us.length + 57, 30 * us.length + 34, 9 * (us.length + 1), us.length + 1) := by
  rw [((startEvents_measures.append (ackedEvents_measures us)).append (writeByteEvents_high_measures w)).size_eq]
  simp only [Prod.mk_add_mk, Prod.mk.injEq]
  omega

/-- R159: a read of `samples.length` bytes. -/
theorem traceSize_readTxn_acked (v : Byte) {samples : List (List Level)} (h : ∀ bs ∈ samples, bs.length = 8) :
    traceSize (uopsOf (startEvents ++ writeByteEvents v .low ++ samples.flatMap readByteEvents ++ stopEvents)) =
      (48 * samples.length + 57, 29 * samples.length + 34, 9 * (samples.length + 1), 8 * samples.length + 1) := by
  have hbytes := Measures.flatMap fun bs hbs => readByteEvents_measures (h bs hbs)
  rw [(((startEvents_measures.append (writeByteEvents_low_measures v)).append hbytes).append
    stopEvents_measures).size_eq]
  simp only [Prod.mk_add_mk, Prod.mk.injEq]
  omega

/-! ### The commands -/

/-- A command begun where it can begin answers a next state only with its operands in range (R90), and that state is its
result. -/
theorem exec_readyIn_inv {s t : State} {i : Instr} {b : BusState} (hb : neededBusState i = some b)
    (hready : s.readyIn b) (h : exec i s = .next t) :
    i.wellFormed s.cfg.bufDepth = true ∧ t = s.commandResult i := by
  obtain ⟨hseq, -⟩ := hready
  cases exec_cases h with
  | uop u hu => cases i <;> cases hb <;> cases hu
  | notAccepted _ hrun => exact absurd hseq hrun
  | completed _ _ ho =>
    refine ⟨?_, rfl⟩
    by_contra hw
    rw [objection_of_not_wellFormed (Bool.eq_false_iff.2 hw)] at ho
    cases ho

theorem bufPrefix_length {s : State} {n : Byte} (h : n.toNat ≤ s.buf.length) : (s.bufPrefix n).length = n.toNat :=
  List.length_take_of_le h

/-- R154, R159: a `WRT` whose first refusal, by the environment's answers, is at byte `k`. -/
theorem traceSize_wrt_refused_at {s : State} {a : PeerAddr} {n : Byte} {k : Nat} (h : s.readyIn .idle)
    (hn : n.toNat ≤ s.buf.length) (hr : s.cfg.resolveSda.readsInput) (hack : s.allAcked k)
    (hnack : s.peerLowAt k = false) (hk : k ≤ n.toNat) :
    traceSize (uopsOf (s.newEvents (s.commandResult (.wrt a n)))) =
      (49 * k + 57, 30 * k + 34, 9 * (k + 1), k + 1) := by
  obtain ⟨hscl, hsda⟩ := pins_of_readyIn_idle h
  have hlt : k < (addressByte a .write :: s.bufPrefix n).length := by
    rw [List.length_cons, bufPrefix_length hn]
    omega
  obtain ⟨us, w, ws, hbytes, hlen⟩ :
      ∃ us w ws, addressByte a .write :: s.bufPrefix n = us ++ w :: ws ∧ us.length = k :=
    ⟨_, _, _, by rw [List.getElem_cons_drop hlt, List.take_append_drop], List.length_take_of_le hlt.le⟩
  subst hlen
  have hrun := writeTxn_run_nack a (s.bufPrefix n) us w ws s hbytes hr hscl hsda hack hnack
  rw [State.commandResult_of_run (bodyOf_wrt s a n) hrun, newEvents_of_log (RegisterWrite.nack.log _)]
  exact traceSize_writeTxn_refused us w

/-- Settles O46: the sizes of each command and outcome are the sums over the parts of its trace; that a `WRT` stops at
byte `k` is read off the environment's answers. -/
theorem sizesOfTheTraces : Obligations.SizesOfTheTraces := by
  intro i s t b hb hready hbuf h
  have htrace := commandTrace_of_exec hb hready h
  obtain ⟨hwf, ht⟩ := exec_readyIn_inv hb hready h
  have hlen (a : PeerAddr) (n : Byte) (hi : i = .wrt a n) : n.toNat ≤ s.buf.length := by
    subst hi
    rw [hbuf]
    exact of_decide_eq_true hwf
  have hrefused (a : PeerAddr) (n : Byte) (hi : i = .wrt a n) (k : Nat) (hr : s.cfg.resolveSda.readsInput)
      (hack : ∀ j, j < k → s.peerLowAt j = true) (hnack : s.peerLowAt k = false) (hk : k ≤ n.toNat) :
      traceSize (uopsOf (s.newEvents t)) = (49 * k + 57, 30 * k + 34, 9 * (k + 1), k + 1) := by
    have hn := hlen a n hi
    subst hi ht
    cases hb
    exact traceSize_wrt_refused_at hready hn hr hack hnack hk
  dsimp only
  generalize s.newEvents t = es at htrace hrefused ⊢
  generalize t.ackf = ok at htrace ⊢
  cases htrace with
  | start => exact startEvents_measures.size_eq
  | stop => exact stopEvents_measures.size_eq
  | wrb v ack =>
    cases ack with
    | low => exact (writeByteEvents_low_measures v).size_eq
    | high => exact (writeByteEvents_high_measures v).size_eq
  | rdb _ bs h8 => exact (readByteEvents_measures h8).size_eq
  | wrtAcked a n =>
    refine ⟨fun _ => ?_, hrefused a n rfl⟩
    rw [← bufPrefix_length (hlen a n rfl)]
    exact traceSize_writeTxn_acked _ _
  | wrtRefused a n => exact ⟨nofun, hrefused a n rfl⟩
  | readAcked _ a n samples hi hn h8 =>
    have hsize := traceSize_readTxn_acked (addressByte a .read) h8
    rw [hn] at hsize
    cases i <;> cases hi
    all_goals exact hsize
  | readRefused _ a n hi =>
    have hsize := traceSize_writeTxn_refused [] (addressByte a .read)
    cases i <;> cases hi
    all_goals exact hsize

end Sys2Proof.Machine
end

section
/-! `RDB` as a whole command, on the environment's answers (R72, R79, R140, R141, R144). -/

namespace Sys2Proof.Machine

open Sys2Proof

/-- Settles O25: the command's result in canonical form, eight samples after acceptance with `RDATA` written, is the state
that the statement writes out field by field. -/
theorem readByteAssemblesEightSamples : Obligations.ReadByteAssemblesEightSamples :=
  fun _ hready hr => exec_rdb_of_readyIn hready hr

end Sys2Proof.Machine
end

section
/-! `WRT` as a whole command (R72, R154, R160, R162, R176). -/

namespace Sys2Proof.Machine

open Sys2Proof

/-- A command presented within its contract runs its program, with the operands of its word loaded, and writes its
registers (R72). -/
theorem exec_of_run {α : Type} {s t : State} {i : Instr} {b : BusState} {p : Prog α} {w : α → State → State}
    {x : α} {o : BitVec 4} {a : PeerAddr} {n d : Byte} (hi : i.isCommand = true) (hb : neededBusState i = some b)
    (hw : i.wellFormed s.cfg.bufDepth = true) (h : s.readyIn b) (hword : commandWord i = CmdWord.assemble o 0#5 a n d)
    (hbody : bodyOf i (s.loadOperands (commandWord i)) = p.bind fun x => .ret (w x)) (hrun : p.run s = (x, t)) :
    exec i s = .next (w x (t.setOperands a n d)) := by
  rw [exec_of_readyIn hi hb hw h, State.commandResult_of_run hbody hrun, hword, loadOperands_assemble]

/-- A ready block that raises the error has only its flag to clear (R177). -/
theorem raiseNack_of_ready {s : State} (h : s.seq = .ready) : s.raiseNack = s.setAck false := by
  rw [State.raiseNack, ← h]
  rfl

theorem wellFormed_wrt {a : PeerAddr} {n : Byte} {depth : Nat} (hn : n.toNat ≤ depth) :
    (Instr.wrt a n).wellFormed depth = true :=
  decide_eq_true hn

/-- The bytes a `WRT` sends where no peer refuses one: the address byte with direction bit 0, then the buffer's
first `n` entries (R77, R152, R154). -/
def State.wrtBytes (s : State) (a : PeerAddr) (n : Byte) : List Byte := (a.setWidth 8 <<< 1) :: s.bufPrefix n

section wrt

variable {s : State} {a : PeerAddr} {n : Byte} (h : s.readyIn .idle) (hn : n.toNat ≤ s.cfg.bufDepth)
  (hbuf : s.buf.length = s.cfg.bufDepth)

include hn hbuf in
theorem wrtBytes_length : (s.wrtBytes a n).length = n.toNat + 1 :=
  congrArg Nat.succ (bufPrefix_length (hn.trans_eq hbuf.symm))

include h hn in
/-- A `WRT` is its transaction with the operands loaded and the flag written (R72, R154). -/
theorem exec_wrt_of_run {ok : Bool} {t : State} (hrun : (writeTxn a (s.bufPrefix n)).run s = (ok, t))
    (hseq : t.seq = s.seq) : exec (.wrt a n) s = .next ((t.setOperands a n 0).setAck ok) := by
  have ⟨hready, _⟩ := h
  rw [exec_of_run rfl rfl (wellFormed_wrt hn) h rfl (bodyOf_wrt s a n) hrun]
  cases ok with
  | true => rfl
  | false => exact congrArg _ (raiseNack_of_ready (hseq.trans hready))

variable (hr : s.cfg.resolveSda.readsInput)

include h hn hbuf hr in
/-- R154, R162: every byte acknowledged. -/
theorem exec_wrt_acked (hack : s.allAcked (n.toNat + 1)) :
    exec (.wrt a n) s =
      .next (((s.ran highPin highPin .low (n.toNat + 1)
        (startEvents ++ ackedEvents (s.wrtBytes a n) ++ stopEvents)).setOperands a n 0).setAck true) := by
  obtain ⟨hscl, hsda⟩ := pins_of_readyIn_idle h
  have hlen := bufPrefix_length (hn.trans_eq hbuf.symm)
  have hrun := writeTxn_run_acked a (s.bufPrefix n) s hr hscl hsda (by rwa [hlen])
  rw [hlen, addressByte_write_eq_shiftLeft] at hrun
  exact exec_wrt_of_run h hn hrun rfl

include h hn hr in
/-- R154, R160, R162, R176: the byte `w` refused, the bytes `us` before it acknowledged. -/
theorem exec_wrt_refused {us ws : List Byte} {w : Byte} (hbytes : s.wrtBytes a n = us ++ w :: ws)
    (hack : s.allAcked us.length) (hnack : s.peerLowAt us.length = false) :
    exec (.wrt a n) s =
      .next (((s.ran highPin highPin .high (us.length + 1)
        (startEvents ++ ackedEvents us ++ writeByteEvents w .high)).setOperands a n 0).setAck false) := by
  obtain ⟨hscl, hsda⟩ := pins_of_readyIn_idle h
  rw [State.wrtBytes, ← addressByte_write_eq_shiftLeft] at hbytes
  exact exec_wrt_of_run h hn (writeTxn_run_nack a _ us w ws s hbytes hr hscl hsda hack hnack) rfl

end wrt

/-- Settles O26: the transaction's own run, every byte acknowledged, with the operands loaded and the flag set. -/
theorem writeTransactionAllAcknowledged : Obligations.WriteTransactionAllAcknowledged := by
  intro a n s h hr hn hbuf hack
  exact exec_wrt_acked h hn hbuf hr fun j hj => hack j (Nat.le_of_lt_succ hj)

theorem eq_take_append_getD_cons_drop {l : List Byte} {k : Nat} (hk : k < l.length) :
    l = l.take k ++ l.getD k 0#8 :: l.drop (k + 1) := by
  rw [List.getD_eq_getElem _ _ hk, List.getElem_cons_drop, List.take_append_drop]

/-- Settles O27: the bytes split at the refused one, the transaction runs up to it. -/
theorem writeTransactionEndsAtTheFirstRefusal : Obligations.WriteTransactionEndsAtTheFirstRefusal := by
  intro a n s k h hr hn hbuf hk hack hnack
  have hlt : k < (s.wrtBytes a n).length := by
    rw [wrtBytes_length hn hbuf]
    omega
  have hlen : ((s.wrtBytes a n).take k).length = k := List.length_take_of_le hlt.le
  have hexec := exec_wrt_refused h hn hr (eq_take_append_getD_cons_drop hlt) (by rwa [hlen]) (by rwa [hlen])
  rw [hlen] at hexec
  exact hexec

end Sys2Proof.Machine
end

section
/-! `RD1` and `RDN` as whole commands, and the three reads refused at the address byte (R72, R155 to R158, R160). -/

namespace Sys2Proof.Machine

open Sys2Proof

/-- Settles O28: the read transaction of one byte. -/
theorem readOneByteTransaction : Obligations.ReadOneByteTransaction := by
  intro a s h hr hpeer
  obtain ⟨hscl, hsda⟩ := pins_of_readyIn_idle h
  have hread := readTxn_run_acked a 1 s hr hscl hsda hpeer
  rw [addressByte_read_eq_or] at hread
  rw [exec_of_run rfl rfl rfl h rfl (bodyOf_rd1 s a) hread]
  rfl

theorem bytesAt_length (s : State) (j n : Nat) : (s.bytesAt j n).length = n := by
  simp [State.bytesAt]

/-- `n` bytes are the buffer's first entries, the later ones as they were (R29, R153). -/
theorem overwritePrefix_of_length {bytes buf : List Byte} {n : Nat} (hlen : bytes.length = n) (hn : n ≤ buf.length) :
    overwritePrefix bytes buf = bytes ++ buf.drop n := by
  subst hlen
  exact overwritePrefix_eq hn

/-- R155, R158: the address byte acknowledged. -/
theorem exec_rdn_acked {a : PeerAddr} {n : Byte} {s : State} (h : s.readyIn .idle) (hr : s.cfg.resolveSda.readsInput)
    (h1 : 1 ≤ n.toNat) (hn : n.toNat ≤ s.cfg.bufDepth) (hbuf : s.buf.length = s.cfg.bufDepth)
    (hpeer : s.peerLowAt 0 = true) :
    exec (.rdn a n) s =
      .next ((((s.ran highPin highPin (answerLevel (s.peerLowAt (8 * n.toNat))) (1 + 8 * n.toNat)
        (startEvents ++ writeByteEvents ((a.setWidth 8 <<< 1) ||| 1#8) .low ++ s.readEvents 1 n.toNat ++
          stopEvents)).setOperands a n 0).setBuf (s.bytesAt 1 n.toNat ++ s.buf.drop n.toNat)).setAck true) := by
  obtain ⟨hscl, hsda⟩ := pins_of_readyIn_idle h
  have hread := readTxn_run_acked a n.toNat s hr hscl hsda hpeer
  have hstored := overwritePrefix_of_length (bytesAt_length s 1 n.toNat) (hn.trans_eq hbuf.symm)
  rw [addressByte_read_eq_or, if_neg (Nat.ne_of_gt h1)] at hread
  rw [exec_of_run rfl rfl (wellFormed_rdn h1 hn) h rfl (bodyOf_rdn s a n) hread, ← hstored]
  rfl

/-- Settles O30: the read transaction of `n` bytes, which the buffer takes. -/
theorem readBufferTransaction : Obligations.ReadBufferTransaction :=
  fun _ _ _ h hr h1 hn hbuf hpeer => exec_rdn_acked h hr h1 hn hbuf hpeer

/-- R155, R160: the address byte of a read refused. -/
theorem readTxn_run_refused {a : PeerAddr} (n : Nat) {s : State} (h : s.readyIn .idle)
    (hr : s.cfg.resolveSda.readsInput) (hpeer : s.peerLowAt 0 = false) :
    (readTxn a n).run s =
      (none, s.ran highPin highPin .high 1 (startEvents ++ writeByteEvents ((a.setWidth 8 <<< 1) ||| 1#8) .high)) := by
  obtain ⟨hscl, hsda⟩ := pins_of_readyIn_idle h
  rw [readTxn_run_nack a n s hr hscl hsda hpeer, addressByte_read_eq_or]

/-- Settles O31: the read transaction ends at the address byte; the error clears the flag and frees the data result. -/
theorem readRefusedAtTheAddressByte : Obligations.ReadRefusedAtTheAddressByte := by
  intro a n s h hr hpeer
  have ⟨hready, _⟩ := h
  refine ⟨⟨Config.freeByte (s.fresh + 1), s.fresh + 2, ?byte⟩,
    ⟨Config.freeWord (s.fresh + 1), s.fresh + 2, ?word⟩, fun h1 hn hbuf => ?bytes⟩
  case byte =>
    rw [exec_of_run rfl rfl rfl h rfl (bodyOf_rd1 s a) (readTxn_run_refused 1 h hr hpeer)]
    exact congrArg _ (raiseNack_of_ready hready)
  case word =>
    rw [exec_of_run rfl rfl rfl h rfl (bodyOf_rd2 s a) (readTxn_run_refused 2 h hr hpeer)]
    exact congrArg _ (raiseNack_of_ready hready)
  case bytes =>
    have hlen : ((List.range n.toNat).map fun i => Config.freeByte (s.fresh + 1 + i)).length = n.toNat := by simp
    refine ⟨_, s.fresh + 1 + n.toNat, hlen, ?_⟩
    rw [exec_of_run rfl rfl (wellFormed_rdn h1 hn) h rfl (bodyOf_rdn s a n) (readTxn_run_refused _ h hr hpeer),
      ← overwritePrefix_of_length hlen (hn.trans_eq hbuf.symm)]
    exact congrArg _ (raiseNack_of_ready hready)

end Sys2Proof.Machine
end

section
/-! The bus state after each command (R41, R150, R201, R207). -/

namespace Sys2Proof.Machine

open Sys2Proof

theorem RegisterWrite.wellBehaved {f : State → State} (h : RegisterWrite f) (s : State) :
    (f s).wellBehaved = s.wellBehaved := by cases h <;> rfl

theorem RegisterWrite.restAtLaunch {f : State → State} (h : RegisterWrite f) (s : State) :
    (f s).restAtLaunch = s.restAtLaunch := by cases h <;> rfl

/-- A command begun where it can begin completes, whatever the samples answer, and the next one can begin in the bus
state it leaves (R150, R207). -/
theorem exists_exec_readyIn {i : Instr} {s : State} {b : BusState} (hi : i.isCommand = true)
    (hb : neededBusState i = some b) (hw : i.wellFormed s.cfg.bufDepth = true) (h : s.readyIn b) :
    ∃ t, exec i s = .next t ∧ t.readyIn (busStateAfter i t.ackf) := by
  obtain ⟨hready, hwell, hrest, hbus⟩ := h
  have ho := objection_none hb hw hwell hrest hbus
  obtain ⟨f, _, _, _, hf, -, ht⟩ := State.commandResult_of_ends (bodyOf_ends_registerWrite i (s.loadOperands _))
  refine ⟨_, exec_command_accepted hi hready ho, ?_, ?_, ?_, State.commandResult_busState hb ho⟩
  · rw [ht]
    exact hf.seq_ready _ hready
  · rw [ht, hf.wellBehaved]
    exact hwell
  · rw [ht, hf.restAtLaunch]
    exact hrest

/-- Settles O35: each command completes in the bus state `busStateAfter` gives. -/
theorem busStateAfterEachCommand : Obligations.BusStateAfterEachCommand := by
  refine ⟨fun _ => exists_exec_readyIn rfl rfl rfl, fun _ => exists_exec_readyIn rfl rfl rfl, fun s d h => ?wrb,
    fun _ => exists_exec_readyIn rfl rfl rfl, fun _ _ _ h hn => exists_exec_readyIn rfl rfl (wellFormed_wrt hn) h,
    fun _ _ => exists_exec_readyIn rfl rfl rfl, fun _ _ => exists_exec_readyIn rfl rfl rfl,
    fun _ _ _ h h1 hn => exists_exec_readyIn rfl rfl (wellFormed_rdn h1 hn) h⟩
  case wrb =>
    obtain ⟨t, ht, hready⟩ := exists_exec_readyIn (i := .wrb d) rfl rfl rfl h
    refine ⟨t, ht, ?_⟩
    cases hack : t.ackf with
    | true => rwa [hack] at hready
    | false => rwa [hack] at hready

end Sys2Proof.Machine
end

section
/-! The byte-level commands a host would use by hand, one after another, and the transactions they make (R161). -/

namespace Sys2Proof.Machine

open Sys2Proof

/-! ### Commands one after another: the last operands and the last flag stay, the traces join -/

section canonical

variable (s : State) (a a' : PeerAddr) (n n' d d' v v' : Byte) (ok ok' : Bool)

@[simp] theorem State.setOperands_setOperands :
    (s.setOperands a n d).setOperands a' n' d' = s.setOperands a' n' d' := rfl
@[simp] theorem State.setAck_setAck : (s.setAck ok).setAck ok' = s.setAck ok' := rfl
@[simp] theorem State.setRData_setRData : (s.setRData v).setRData v' = s.setRData v' := rfl
@[simp] theorem State.setAck_setOperands : (s.setAck ok).setOperands a n d = (s.setOperands a n d).setAck ok := rfl
@[simp] theorem State.setRData_setOperands : (s.setRData v).setOperands a n d = (s.setOperands a n d).setRData v := rfl

variable (scl sda : Pin) (ans : Level) (m j : Nat) (es : List Event)

@[simp] theorem State.setOperands_ran :
    (s.setOperands a n d).ran scl sda ans m es = (s.ran scl sda ans m es).setOperands a n d := rfl
@[simp] theorem State.setAck_ran :
    (s.setAck ok).ran scl sda ans m es = (s.ran scl sda ans m es).setAck ok := rfl
@[simp] theorem State.setRData_ran :
    (s.setRData v).ran scl sda ans m es = (s.ran scl sda ans m es).setRData v := rfl
@[simp] theorem State.setOperands_peerLowAt : (s.setOperands a n d).peerLowAt j = s.peerLowAt j := rfl
@[simp] theorem State.setAck_peerLowAt : (s.setAck ok).peerLowAt j = s.peerLowAt j := rfl
@[simp] theorem State.setRData_peerLowAt : (s.setRData v).peerLowAt j = s.peerLowAt j := rfl

end canonical

theorem execAll_cons {i : Instr} {s t : State} (h : exec i s = .next t) (is : List Instr) :
    execAll (i :: is) s = execAll is t := by
  rw [execAll, h]

theorem execAll_append {is : List Instr} {s t : State} (h : execAll is s = .next t) (js : List Instr) :
    execAll (is ++ js) s = execAll js t := by
  induction is generalizing s with
  | nil =>
    cases h
    rfl
  | cons i is ih =>
    cases hi : exec i s with
    | next u =>
      rw [execAll_cons hi] at h
      rw [List.cons_append, execAll_cons hi, ih h]
    | fault f => rw [execAll, hi] at h; cases h
    | refused r => rw [execAll, hi] at h; cases h

/-! ### What the byte-level commands leave -/

/-- What `START` leaves (R122). -/
def State.started (s : State) : State := (s.ran lowPin lowPin s.uopAns 0 startEvents).setOperands 0 0 0

/-- What `WRB v` leaves where the byte is acknowledged (R131). -/
def State.wrote (s : State) (v : Byte) : State :=
  ((s.ran lowPin lowPin .low 1 (writeByteEvents v .low)).setOperands 0 0 v).setAck true

section byteCommands

variable {s : State}

@[simp] theorem started_peerLowAt (s : State) (j : Nat) : s.started.peerLowAt j = s.peerLowAt j := by
  simp [State.started]

@[simp] theorem wrote_peerLowAt (s : State) (v : Byte) (j : Nat) : (s.wrote v).peerLowAt j = s.peerLowAt (1 + j) := by
  simp [State.wrote]

/-- Micro-operations that end with both pins low leave a ready block in `Busy` (R41). -/
theorem readyIn_ran_low {b : BusState} (h : s.readyIn b) (ans : Level) (m : Nat) (es : List Event) :
    (s.ran lowPin lowPin ans m es).readyIn .busy := by
  obtain ⟨hready, hwell, hrest, -⟩ := h
  exact ⟨hready, hwell, hrest, rfl⟩

theorem started_readyIn {b : BusState} (h : s.readyIn b) : s.started.readyIn .busy :=
  readyIn_ran_low h s.uopAns 0 startEvents

theorem wrote_readyIn {b : BusState} (h : s.readyIn b) (v : Byte) : (s.wrote v).readyIn .busy :=
  readyIn_ran_low h .low 1 (writeByteEvents v .low)

theorem exec_start_of_readyIn (h : s.readyIn .idle) : exec .start s = .next s.started :=
  startTakesTheBus s h

theorem exec_stop_of_readyIn (h : s.readyIn .busy) :
    exec .stop s = .next ((s.ran highPin highPin s.uopAns 0 stopEvents).setOperands 0 0 0) :=
  stopReleasesTheBus s h

variable (h : s.readyIn .busy) (hr : s.cfg.resolveSda.readsInput) (v : Byte)
include h hr

theorem exec_wrb_acked (hpeer : s.peerLowAt 0 = true) : exec (.wrb v) s = .next (s.wrote v) :=
  (writeByteSendsAndSamplesAcknowledge v s h hr).1 hpeer

theorem exec_wrb_refused (hpeer : s.peerLowAt 0 = false) :
    exec (.wrb v) s =
      .next (((s.ran highPin highPin .high 1 (writeByteEvents v .high)).setOperands 0 0 v).setAck false) :=
  (writeByteSendsAndSamplesAcknowledge v s h hr).2 hpeer

end byteCommands

/-! ### The bytes of a `WRT` by hand -/

theorem wrote_allAcked {s : State} {n : Nat} (h : s.allAcked (n + 1)) (v : Byte) : (s.wrote v).allAcked n :=
  fun j hj => by
    rw [wrote_peerLowAt]
    exact h _ (by omega)

/-- `WRB` of each byte, all acknowledged, then `STOP`. -/
theorem execAll_wrbs_stop (v : Byte) (vs : List Byte) {s : State} (h : s.readyIn .busy)
    (hr : s.cfg.resolveSda.readsInput) (hack : s.allAcked (vs.length + 1)) :
    execAll ((v :: vs).map .wrb ++ [.stop]) s =
      .next (((s.ran highPin highPin .low (vs.length + 1) (ackedEvents (v :: vs) ++ stopEvents)).setOperands
        0 0 0).setAck true) := by
  induction vs generalizing v s with
  | nil =>
    have hv := exec_wrb_acked h hr v (hack 0 (Nat.succ_pos _))
    have hstop := exec_stop_of_readyIn (wrote_readyIn h v)
    rw [List.map_cons, List.cons_append, execAll_cons hv, List.map_nil, List.nil_append, execAll_cons hstop]
    simp [execAll, State.wrote, ackedEvents]
  | cons w vs ih =>
    have hv := exec_wrb_acked h hr v (hack 0 (Nat.succ_pos _))
    rw [List.map_cons, List.cons_append, execAll_cons hv, ih w (wrote_readyIn h v) hr (wrote_allAcked hack v)]
    simp [State.wrote, ackedEvents, Nat.add_comm]

/-- `WRB` of each byte, the last one refused. -/
theorem execAll_wrbs_refused (us : List Byte) (w : Byte) {s : State} (h : s.readyIn .busy)
    (hr : s.cfg.resolveSda.readsInput) (hack : s.allAcked us.length) (hnack : s.peerLowAt us.length = false) :
    execAll ((us ++ [w]).map .wrb) s =
      .next (((s.ran highPin highPin .high (us.length + 1) (ackedEvents us ++ writeByteEvents w .high)).setOperands
        0 0 w).setAck false) := by
  induction us generalizing s with
  | nil => exact execAll_cons (exec_wrb_refused h hr w hnack) []
  | cons v us ih =>
    have hv := exec_wrb_acked h hr v (hack 0 (Nat.succ_pos _))
    have hnack' : (s.wrote v).peerLowAt us.length = false := by rwa [wrote_peerLowAt, Nat.add_comm]
    rw [List.cons_append, List.map_cons, execAll_cons hv, ih (wrote_readyIn h v) hr (wrote_allAcked hack v) hnack']
    simp [State.wrote, ackedEvents, Nat.add_comm]

section wrt

variable {a : PeerAddr} {n : Byte} {s : State} (h : s.readyIn .idle) (hr : s.cfg.resolveSda.readsInput)
  (hn : n.toNat ≤ s.cfg.bufDepth) (hbuf : s.buf.length = s.cfg.bufDepth)

include h hr hn hbuf in
theorem exec_wrt_eq_byHand_acked (hack : s.allAcked (n.toNat + 1)) :
    ∃ t u, exec (.wrt a n) s = .next t ∧ execAll (.start :: (s.wrtBytes a n).map .wrb ++ [.stop]) s = .next u ∧
      t = u.setOperands a n 0 := by
  have hlen : (s.bufPrefix n).length = n.toNat := bufPrefix_length (hn.trans_eq hbuf.symm)
  have hhand := execAll_wrbs_stop (a.setWidth 8 <<< 1) (s.bufPrefix n) (started_readyIn h) hr fun j hj => by
    rw [started_peerLowAt]
    exact hack j (by rwa [hlen] at hj)
  rw [hlen] at hhand
  refine ⟨_, _, exec_wrt_acked h hn hbuf hr hack, (execAll_cons (exec_start_of_readyIn h) _).trans hhand, ?_⟩
  simp [State.started, State.wrtBytes]

include h hr hn in
theorem exec_wrt_eq_byHand_refused {us ws : List Byte} {w : Byte} (hbytes : s.wrtBytes a n = us ++ w :: ws)
    (hack : s.allAcked us.length) (hnack : s.peerLowAt us.length = false) :
    ∃ t u, exec (.wrt a n) s = .next t ∧ execAll (.start :: (us ++ [w]).map .wrb) s = .next u ∧
      t = u.setOperands a n 0 := by
  have hhand := execAll_wrbs_refused us w (started_readyIn h) hr (fun j hj => by simpa using hack j hj)
    (by simpa using hnack)
  refine ⟨_, _, exec_wrt_refused h hn hr hbytes hack hnack,
    (execAll_cons (exec_start_of_readyIn h) _).trans hhand, ?_⟩
  simp [State.started]

end wrt

/-- Settles O50: the same trace in the same parts, one after another; the operand registers hold the last command's. -/
theorem writeTransactionEqualsItsByteCommands : Obligations.WriteTransactionEqualsItsByteCommands := by
  intro a n s h hr hn hbuf bytes
  refine ⟨fun hack => ?acked, fun k hk hack hnack => ?refused⟩
  case acked => exact exec_wrt_eq_byHand_acked h hr hn hbuf fun j hj => hack j (Nat.le_of_lt_succ hj)
  case refused =>
    have hlt : k < bytes.length := (Nat.lt_succ_of_le hk).trans_eq (wrtBytes_length hn hbuf).symm
    have hlen : (bytes.take k).length = k := List.length_take_of_le hlt.le
    have htake : bytes.take (k + 1) = bytes.take k ++ [bytes.getD k 0#8] := by
      rw [List.getD_eq_getElem _ _ hlt, List.take_concat_get']
    rw [htake]
    exact exec_wrt_eq_byHand_refused h hr hn (eq_take_append_getD_cons_drop hlt) (by rwa [hlen]) (by rwa [hlen])

/-! ### The bytes of an `RDN` by hand -/

/-- What `RDB`, given `n + 1` times, leaves: the bytes come in order, and `RDATA` holds the last one (R141). -/
def State.gotBytes (s : State) (n : Nat) : State :=
  ((s.ran lowPin lowPin (answerLevel (s.peerLowAt (8 * n + 7))) (8 * n + 8) (s.readEvents 0 (n + 1))).setOperands
    0 0 0).setRData (s.byteAt (8 * n))

theorem gotBytes_peerLowAt (s : State) (n j : Nat) : (s.gotBytes n).peerLowAt j = s.peerLowAt (8 * n + 8 + j) := by
  simp [State.gotBytes]

theorem gotBytes_readyIn {s : State} {b : BusState} (h : s.readyIn b) (n : Nat) : (s.gotBytes n).readyIn .busy :=
  readyIn_ran_low h (answerLevel (s.peerLowAt (8 * n + 7))) (8 * n + 8) (s.readEvents 0 (n + 1))

/-- The bytes still to come, and their trace, depend on the environment's answers alone. -/
theorem received_congr {s t : State} {m : Nat} (h : ∀ j, t.peerLowAt j = s.peerLowAt (m + j)) (j n : Nat) :
    t.byteAt j = s.byteAt (m + j) ∧ t.answersAt j n = s.answersAt (m + j) n ∧
      t.readEvents j n = s.readEvents (m + j) n := by
  simp [State.byteAt, State.answersAt, State.readEvents, h, Nat.add_assoc]

theorem readEvents_succ (s : State) (j n : Nat) :
    s.readEvents j (n + 1) = s.readEvents j n ++ readByteEvents (s.answersAt (j + 8 * n) 8) := by
  simp [State.readEvents, List.range_succ]

theorem execAll_rdbs (n : Nat) {s : State} (h : s.readyIn .busy) (hr : s.cfg.resolveSda.readsInput) :
    execAll (List.replicate (n + 1) .rdb) s = .next (s.gotBytes n) := by
  induction n with
  | zero =>
    rw [State.gotBytes, readEvents_succ]
    exact execAll_cons (exec_rdb_of_readyIn h hr) []
  | succ n ih =>
    obtain ⟨hbyte, hanswers, -⟩ := received_congr (gotBytes_peerLowAt s n) 0 8
    rw [List.replicate_succ', execAll_append ih, execAll_cons (exec_rdb_of_readyIn (gotBytes_readyIn h n) hr), hbyte,
      hanswers, gotBytes_peerLowAt, State.gotBytes, State.gotBytes, readEvents_succ s 0 (n + 1)]
    simp [execAll, Nat.mul_add, Nat.add_assoc]

/-- `RDB`, `n + 1` times, then `STOP`. -/
theorem execAll_rdbs_stop (n : Nat) {s : State} (h : s.readyIn .busy) (hr : s.cfg.resolveSda.readsInput) :
    execAll (List.replicate (n + 1) .rdb ++ [.stop]) s =
      .next (((s.ran highPin highPin (answerLevel (s.peerLowAt (8 * n + 7))) (8 * n + 8)
        (s.readEvents 0 (n + 1) ++ stopEvents)).setOperands 0 0 0).setRData (s.byteAt (8 * n))) := by
  rw [execAll_append (execAll_rdbs n h hr), execAll_cons (exec_stop_of_readyIn (gotBytes_readyIn h n))]
  simp [execAll, State.gotBytes]

theorem bytesAt_getD {s : State} {j n k : Nat} (h : k < n) (vs : List Byte) :
    (s.bytesAt j n ++ vs).getD k 0#8 = s.byteAt (j + 8 * k) := by
  rw [List.getD_append _ _ _ _ (h.trans_eq (bytesAt_length s j n).symm)]
  simp [State.bytesAt, h]

/-- `START`, `WRB v` acknowledged, `RDB` given `n + 1` times, `STOP`. -/
theorem execAll_read_byHand (v : Byte) (n : Nat) {s : State} (h : s.readyIn .idle) (hr : s.cfg.resolveSda.readsInput)
    (hpeer : s.peerLowAt 0 = true) :
    execAll (.start :: .wrb v :: (List.replicate (n + 1) .rdb ++ [.stop])) s =
      .next ((((s.ran highPin highPin (answerLevel (s.peerLowAt (1 + (8 * n + 7)))) (1 + (8 * n + 8))
        (startEvents ++ writeByteEvents v .low ++ s.readEvents 1 (n + 1) ++ stopEvents)).setOperands 0 0 0).setAck
          true).setRData (s.byteAt (1 + 8 * n))) := by
  have hbusy := started_readyIn h
  have hpeers (j : Nat) : (s.started.wrote v).peerLowAt j = s.peerLowAt (1 + j) := by simp
  obtain ⟨-, -, hevents⟩ := received_congr hpeers 0 (n + 1)
  obtain ⟨hlast, -⟩ := received_congr hpeers (8 * n) 0
  rw [execAll_cons (exec_start_of_readyIn h), execAll_cons (exec_wrb_acked hbusy hr v hpeer),
    execAll_rdbs_stop n (wrote_readyIn hbusy v) hr, hpeers, hevents, hlast]
  simp [State.started, State.wrote]

/-- Settles O51: the same trace in the same parts, one after another. -/
theorem readTransactionEqualsItsByteCommands : Obligations.ReadTransactionEqualsItsByteCommands := by
  intro a n s h hr h1 hn hbuf
  refine ⟨fun hpeer => ?acked, fun hpeer => ?refused⟩
  case acked =>
    obtain ⟨k, hk⟩ : ∃ k, n.toNat = k + 1 := Nat.exists_eq_add_of_le' h1
    have hrdn := exec_rdn_acked (a := a) h hr h1 hn hbuf hpeer
    rw [hk] at hrdn ⊢
    exact ⟨_, _, hrdn, execAll_read_byHand _ k h hr hpeer, rfl, rfl, rfl, rfl, (bytesAt_getD k.lt_succ_self _).symm⟩
  case refused =>
    have hwrb := exec_wrb_refused (started_readyIn h) hr ((a.setWidth 8 <<< 1) ||| 1#8) hpeer
    obtain ⟨-, -, hrdn⟩ := readRefusedAtTheAddressByte a n s h hr hpeer
    obtain ⟨_, _, -, hrdn⟩ := hrdn h1 hn hbuf
    refine ⟨_, _, hrdn, (execAll_cons (exec_start_of_readyIn h) _).trans (execAll_cons hwrb []), ?_, rfl, rfl, rfl⟩
    simp [State.trace, State.started]

end Sys2Proof.Machine
end

section
/-! The one error: what raising it writes (R177, R178), and what a refused `WRT` records of it (R171). -/

namespace Sys2Proof.Machine

open Sys2Proof

/-- Settles O8: the flag and the position are the two fields that raising the error writes. -/
theorem raiseNackClearsTheFlagAndEndsTheCommand : Obligations.RaiseNackClearsTheFlagAndEndsTheCommand :=
  fun _ => rfl

/-- R160, R177: whichever byte was refused, a `WRT` that failed leaves both pins high, the last answer `HIGH`, its
operands loaded and the flag clear; where it was refused shows in the trace and in the answers used up alone. -/
theorem exec_wrt_failed {a : PeerAddr} {n : Byte} {s t : State} (h : exec (.wrt a n) s = .next t)
    (hs : s.seq = .ready) (hfail : t.ackf = false) :
    ∃ m es, t = ((s.ran highPin highPin .high m es).setOperands a n 0).setAck false := by
  cases exec_cases h with
  | uop _ hu => cases hu
  | notAccepted _ hrun => exact absurd hs hrun
  | completed _ _ ho =>
    obtain ⟨hscl, hsda⟩ := pins_of_objection_none rfl ho
    have hload (v : State) : v.loadOperands (commandWord (.wrt a n)) = v.setOperands a n 0 :=
      loadOperands_assemble v _ _ _ _
    rcases writeTxn_run_cases a (s.bufPrefix n) s hscl hsda with ⟨ans, hrun⟩ | ⟨us, w, ws, -, hrun⟩
    · rw [State.commandResult_of_run (bodyOf_wrt s a n) hrun] at hfail
      cases hfail
    · refine ⟨us.length + 1, startEvents ++ ackedEvents us ++ writeByteEvents w .high, ?_⟩
      rw [State.commandResult_of_run (bodyOf_wrt s a n) hrun, hload]
      exact raiseNack_of_ready hs

/-- Settles O43: both runs end in the form of `exec_wrt_failed`, whose registers, pins and last answer come from the
common state and the operands. -/
theorem refusedByteIsNotRecorded : Obligations.RefusedByteIsNotRecorded := by
  intro a n s t u ps ht hu hs htack huack
  obtain ⟨_, _, rfl⟩ := exec_wrt_failed ht hs htack
  obtain ⟨_, _, rfl⟩ := exec_wrt_failed hu hs huack
  exact ⟨rfl, rfl, rfl, rfl, rfl, rfl, rfl, rfl, rfl, rfl, rfl⟩

end Sys2Proof.Machine
end

section
/-! The lower bounds on duration: the ticks of the waits, added up over the parts of the traces (R101, R213, R214). -/

namespace Sys2Proof.Machine

open Sys2Proof

section durations
variable (c : Config)

/-! ### Durations add up along a trace -/

theorem minDuration_append (us vs : List Uop) : minDuration c (us ++ vs) = minDuration c us + minDuration c vs := by
  simp [minDuration]

/-- The lower bound on the duration of the items `es`. -/
def minTicks (es : List Event) : Nat := minDuration c (uopsOf es)

theorem minTicks_append (es fs : List Event) : minTicks c (es ++ fs) = minTicks c es + minTicks c fs := by
  simp [minTicks, uopsOf, minDuration_append]

theorem minTicks_flatMap {α : Type} {xs : List α} {f : α → List Event} {d : Nat}
    (h : ∀ x ∈ xs, minTicks c (f x) = d) :
    minTicks c (xs.flatMap f) = xs.length * d := by
  induction xs with
  | nil => exact (Nat.zero_mul d).symm
  | cons x xs ih =>
    obtain ⟨hx, hxs⟩ := List.forall_mem_cons.1 h
    rw [List.flatMap_cons, minTicks_append, hx, ih hxs, List.length_cons, Nat.succ_mul, Nat.add_comm]

/-! ### The parts of the traces -/

/-- R214's `P`: one pulse. -/
def pulseTicks : Nat := c.tClkLowHold + c.tClkHighHold

/-- R214: a byte written and acknowledged, or read. -/
def byteTicks : Nat := 9 * pulseTicks c + c.tInputSettle

theorem minTicks_plain (us : List Uop) : minTicks c (plain us) = (us.map (waitTicks c)).sum := by
  simp [minTicks, uopsOf, plain, minDuration, Function.comp_def]

theorem minTicks_startEvents : minTicks c startEvents = c.tStartHold := by
  simp [startEvents, minTicks_plain, waitTicks, driverCall]

theorem minTicks_stopEvents : minTicks c stopEvents = pulseTicks c + c.tStopHold := by
  simp [stopEvents, minTicks_plain, waitTicks, driverCall, pulseTicks, Nat.add_assoc]

theorem minTicks_pulseEvents : minTicks c pulseEvents = pulseTicks c := by
  simp [pulseEvents, minTicks_plain, waitTicks, driverCall, pulseTicks]

theorem minTicks_samplePulseEvents (l : Level) : minTicks c (samplePulseEvents l) = pulseTicks c := by
  simp [samplePulseEvents, minTicks, uopsOf, plain, sampled, minDuration, waitTicks, driverCall, pulseTicks]

theorem minTicks_release : minTicks c (plain [.dIn, .wSettle]) = c.tInputSettle := by
  simp [minTicks_plain, waitTicks, driverCall]

theorem minTicks_drive : minTicks c (plain [.d0, .dOut]) = 0 := rfl

theorem minTicks_bitEvents (b : Bool) : minTicks c (bitEvents b) = pulseTicks c := by
  have hset : minTicks c (plain [if b then .d1 else .d0]) = 0 := by cases b <;> rfl
  rw [bitEvents, minTicks_append, hset, minTicks_pulseEvents, Nat.zero_add]

theorem minTicks_bitsMsbFirst (v : Byte) : minTicks c ((bitsMsbFirst v).flatMap bitEvents) = 8 * pulseTicks c :=
  minTicks_flatMap c fun b _ => minTicks_bitEvents c b

/-- R130: a refused byte adds its own stop to the pulse of the acknowledge sample. -/
theorem minTicks_ackEvents (ack : Level) :
    minTicks c (ackEvents ack) =
      c.tInputSettle + pulseTicks c + if acknowledged ack then 0 else pulseTicks c + c.tStopHold := by
  simp only [ackEvents, minTicks_append, minTicks_release, minTicks_samplePulseEvents, minTicks_drive, Nat.add_zero]
  cases ack with
  | low => rfl
  | high => exact congrArg _ (minTicks_stopEvents c)

/-- R214: the eight bits and the acknowledge. -/
theorem minTicks_writeByteEvents (v : Byte) (ack : Level) :
    minTicks c (writeByteEvents v ack) =
      if acknowledged ack then byteTicks c else 10 * pulseTicks c + c.tInputSettle + c.tStopHold := by
  rw [writeByteEvents_eq, minTicks_append, minTicks_bitsMsbFirst, minTicks_ackEvents]
  unfold byteTicks
  split <;> omega

/-- R140: eight sampled pulses and the pulse of the acknowledge. -/
theorem minTicks_readByteEvents {bs : List Level} (h : bs.length = 8) :
    minTicks c (readByteEvents bs) = byteTicks c := by
  have hsamples := minTicks_flatMap c fun l (_ : l ∈ bs) => minTicks_samplePulseEvents c l
  simp only [readByteEvents, minTicks_append, minTicks_release, hsamples, h, minTicks_drive, minTicks_pulseEvents,
    byteTicks]
  omega

/-! ### The transactions -/

theorem minTicks_ackedEvents (vs : List Byte) : minTicks c (ackedEvents vs) = vs.length * byteTicks c :=
  minTicks_flatMap c fun v _ => minTicks_writeByteEvents c v .low

/-- R154, R214: a `WRT` of `vs.length` bytes with the address byte, all acknowledged. -/
theorem minTicks_writeTxn_acked (v : Byte) (vs : List Byte) :
    minTicks c (startEvents ++ ackedEvents (v :: vs) ++ stopEvents) =
      c.tStartHold + (vs.length + 1) * byteTicks c + pulseTicks c + c.tStopHold := by
  rw [minTicks_append, minTicks_append, minTicks_startEvents, minTicks_ackedEvents, minTicks_stopEvents,
    List.length_cons, ← Nat.add_assoc]

/-- R155, R214: a read of `samples.length` bytes, its address byte acknowledged. -/
theorem minTicks_readTxn_acked (v : Byte) {samples : List (List Level)} (h : ∀ bs ∈ samples, bs.length = 8) :
    minTicks c (startEvents ++ writeByteEvents v .low ++ samples.flatMap readByteEvents ++ stopEvents) =
      c.tStartHold + (samples.length + 1) * byteTicks c + pulseTicks c + c.tStopHold := by
  have haddr : minTicks c (writeByteEvents v .low) = byteTicks c := minTicks_writeByteEvents c v .low
  have hbytes := minTicks_flatMap c fun bs hbs => minTicks_readByteEvents c (h bs hbs)
  simp only [minTicks_append, minTicks_startEvents, minTicks_stopEvents, haddr, hbytes, Nat.succ_mul]
  omega

end durations

/-! ### The commands -/

/-- Settles O47: each command's trace is one of `CommandTrace`'s, and its bound is the sum over the parts. -/
theorem lowerBoundsOnDuration : Obligations.LowerBoundsOnDuration := by
  intro i s t b hb hready hbuf h
  have htrace := commandTrace_of_exec hb hready h
  obtain ⟨hwf, -⟩ := exec_readyIn_inv hb hready h
  dsimp only
  generalize s.newEvents t = es at htrace ⊢
  generalize t.ackf = ok at htrace ⊢
  cases htrace with
  | start => exact minTicks_startEvents s.cfg
  | stop => exact minTicks_stopEvents s.cfg
  | wrb v ack => exact minTicks_writeByteEvents s.cfg v ack
  | rdb _ bs h8 => exact minTicks_readByteEvents s.cfg h8
  | wrtAcked a n =>
    intro _
    have hn : n.toNat ≤ s.buf.length := hbuf ▸ of_decide_eq_true hwf
    rw [← bufPrefix_length hn]
    exact minTicks_writeTxn_acked s.cfg _ _
  | wrtRefused => nofun
  | readAcked _ a n samples hi hn h8 =>
    have hticks := minTicks_readTxn_acked s.cfg (addressByte a .read) h8
    rw [hn] at hticks
    cases i <;> cases hi
    all_goals exact fun _ => hticks
  | readRefused _ a n hi =>
    cases i <;> cases hi
    all_goals nofun

end Sys2Proof.Machine
end

section
/-! Reset: its micro-operations, and the state it leaves (R191 to R194). -/

namespace Sys2Proof.Machine

open Sys2Proof

/-- R191: from any pins, both pins high and driven. -/
theorem resetSeq_run (s : State) :
    resetSeq.run s = ((), s.ran highPin highPin s.uopAns 0 (plain [.c1, .cOut, .d1, .dOut])) :=
  issueAll_run (by decide) s

/-- Settles O9: four plain micro-operations, which between them write the latch and the mode of both pins. -/
theorem resetSequenceReachesIdleFromAnyPins : Obligations.ResetSequenceReachesIdleFromAnyPins := by
  intro s
  rw [resetSeq_run]
  exact ⟨rfl, (busState_idle_iff _).2 ⟨rfl, rfl⟩⟩

/-- The default `resolve_sda` on a released pin (R38, R40). -/
theorem wireEntry_default_released (l : Level) (b : Bool) :
    wireEntry SdaResolve.default ⟨.inputPullup, l⟩ b = some (if b then .low else .high) := by
  cases l <;> cases b <;> rfl

/-- Settles O10: the registers and pins as reset gives them, and the defaults of R9, R21 and R40. -/
theorem stateAfterReset : Obligations.StateAfterReset := by
  refine ⟨fun c => ?given, rfl, rfl, rfl, rfl, rfl, rfl, rfl, fun l b => ?read,
    wireEntry_default_drivenHigh rfl rfl, rfl⟩
  case given =>
    have hidle : (State.resetWith c).busState = .idle := (busState_idle_iff _).2 ⟨rfl, rfl⟩
    exact ⟨rfl, rfl, rfl, rfl, rfl, rfl, hidle, rfl⟩
  case read => exact ⟨wireEntry_default_released l b, wireEntry_default_drivenLow rfl rfl b⟩

end Sys2Proof.Machine
end

section
/-! Refusals of a command presented to a ready block: a premise on the environment that fails, a bus state outside the
contract (R200, R201, R207). -/

namespace Sys2Proof.Machine

open Sys2Proof

/-- R201: with the operands in range and both premises met, the bus state alone stands against a command. -/
theorem objection_outOfContract {s : State} {i : Instr} {b : BusState} (hb : neededBusState i = some b)
    (hw : i.wellFormed s.cfg.bufDepth = true) (he : s.wellBehaved = true) (hl : s.restAtLaunch = true)
    (hs : s.busState ≠ b) : s.objection i = some (.outOfContract b) := by
  simp [State.objection, (environmentObjection_none_iff s).2 ⟨he, hl⟩, hb, hw, hs]

/-- R200, R207: what is missing of the environment's premises is named before the bus state is looked at. -/
theorem objection_of_environmentObjection {s : State} {i : Instr} {r : Refusal}
    (hw : i.wellFormed s.cfg.bufDepth = true) (he : s.environmentObjection = some r) : s.objection i = some r := by
  simp [State.objection, hw, he]

/-- Settles O32: every command named is one whose needed bus state is not the one at hand. -/
theorem commandOutsideItsBusStateIsRefused : Obligations.CommandOutsideItsBusStateIsRefused := by
  intro s hready hwell hrest
  have refused {i : Instr} {b : BusState} (hi : i.isCommand = true) (hb : neededBusState i = some b)
      (hw : i.wellFormed s.cfg.bufDepth = true) (hs : s.busState ≠ b) : exec i s = .refused (.outOfContract b) :=
    exec_command_refused hi hready (objection_outOfContract hb hw hwell hrest hs)
  constructor
  · intro hs
    exact ⟨refused rfl rfl rfl hs, fun _ _ hn => refused rfl rfl (wellFormed_wrt hn) hs,
      fun _ => refused rfl rfl rfl hs, fun _ => refused rfl rfl rfl hs,
      fun _ _ h1 hn => refused rfl rfl (wellFormed_rdn h1 hn) hs⟩
  · intro hs
    exact ⟨refused rfl rfl rfl hs, fun _ => refused rfl rfl rfl hs, refused rfl rfl rfl hs⟩

/-- Settles O34: the environment's objection, whichever it is, is the command's. -/
theorem noCommandWithoutTheEnvironmentPremise : Obligations.NoCommandWithoutTheEnvironmentPremise := by
  intro i s hi hw hready
  have refused {r : Refusal} (he : s.environmentObjection = some r) : exec i s = .refused r :=
    exec_command_refused hi hready (objection_of_environmentObjection hw he)
  constructor
  · intro hwell
    exact refused (by simp [State.environmentObjection, hwell])
  · intro hwell hrest
    exact refused (by simp [State.environmentObjection, hwell, hrest])

end Sys2Proof.Machine
end
